-- ==== Sys2Proof/Word.lean ====
section
/-! DEFINITION. The word types of the core and its operand widths (00_scope.md R8, R10). -/

namespace Sys2Proof

/-- An 8-bit value. -/
abbrev Byte := BitVec 8

/-- A 16-bit value: an offset, a segment, a word operand. -/
abbrev Word := BitVec 16

/-- A 32-bit value. -/
abbrev Dword := BitVec 32

/-- The operand widths w of 40_alu_binary.md R200: 8, 16 and 32 bits. -/
inductive Width where
  | w8 | w16 | w32
deriving DecidableEq, Repr

/-- w in bits. -/
abbrev Width.bits : Width → Nat
  | .w8 => 8
  | .w16 => 16
  | .w32 => 32

/-- n = w / 8, the number of bytes an access of width w touches (20_memory.md R79). -/
abbrev Width.bytes : Width → Nat
  | .w8 => 1
  | .w16 => 2
  | .w32 => 4

/-- `OSZ`, the operand size of an instruction (30_encoding.md R114): 16, or 32 under prefix 0x66. -/
inductive OSize where
  | o16 | o32
deriving DecidableEq, Repr

/-- The width of a "v" operand (30_encoding.md R127). -/
abbrev OSize.width : OSize → Width
  | .o16 => .w16
  | .o32 => .w32

end Sys2Proof
end

