-- ==== Sys2Proof/Config.lean ====
section
/-! DEFINITION. The open parameters of 00_scope.md R9 as plain data (log entry 1), and the free values: constants
without a body, for the `any` of R13 (log entries 4, 7, 12) and for host services (R611, log entry 8). -/

namespace Sys2Proof

/-- `INCDEC_CF` (40_alu_binary.md R207, R208). -/
inductive IncDecCf where
  | written | preserved
deriving DecidableEq, Repr

/-- `AND_FLAG_POLICY` (40_alu_binary.md R204). -/
inductive AndFlagPolicy where
  | source | x86
deriving DecidableEq, Repr

/-- `BP_DEFAULT_SEG` (30_encoding.md R122). -/
inductive BpDefaultSeg where
  | ds | ss
deriving DecidableEq, Repr

/-- `RCL_MULTI_BIT` (43_shift_rotate.md R336). -/
inductive RclMultiBit where
  | iterated | unspecified
deriving DecidableEq, Repr

/-- The parameters of 00_scope.md R9 that the core depends on. `hostInt` lists the vectors that `HOST_INT` claims; what a
claimed service does is `Config.hostService`. (`INIT_STATE` is the state itself; the two `ASM_` parameters are
`AsmSyntax`.) -/
structure Params where
  memSize : Nat
  ahfMask : Byte
  incDecCf : IncDecCf
  andFlagPolicy : AndFlagPolicy
  bpDefaultSeg : BpDefaultSeg
  rclMultiBit : RclMultiBit
  hostInt : List Byte
deriving DecidableEq, Repr

/-- The defaults of 00_scope.md R9. -/
def Params.default : Params where
  memSize := 0x100000
  ahfMask := 0x7F
  incDecCf := .written
  andFlagPolicy := .source
  bpDefaultSeg := .ds
  rclMultiBit := .iterated
  hostInt := []

/-- The two parameters of 00_scope.md R9 that concern the assembler's spelling alone, which the source leaves open
(30_encoding.md R180). They are arguments of the assembler and no part of State: no step reads them. R9 gives no default. -/
structure AsmSyntax where
  /-- `ASM_NUMERIC_SYNTAX`: the value of a numeric literal; none if the text is no literal. -/
  number : List Char → Option Int
  /-- `ASM_WIDTH_TAG`: the width in bits that the text before a bracketed operand names (a far pointer has 32, or 48 under
  0x66); none if it names none. -/
  widthTag : List Char → Option Nat

/-- A core state as a host service sees and leaves it (60_exceptions.md R611): registers, flags (as the image of
10_state.md R41) and memory. Going in, `mem` lists the memory; coming back, the memory becomes the bytes `mem` lists,
every other byte being 0. -/
structure ServiceState where
  eax : Dword
  ecx : Dword
  edx : Dword
  ebx : Dword
  esp : Dword
  ebp : Dword
  esi : Dword
  edi : Dword
  es : Word
  cs : Word
  ss : Word
  ds : Word
  fs : Word
  gs : Word
  ip : Word
  flags : Word
  mem : List Host.Cell
deriving DecidableEq, Repr, Inhabited

/-- How a host service ends (60_exceptions.md R611): a new core state, a HostFault with the service's own record, or it
blocks forever inside its step. -/
inductive ServiceResult where
  | done (t : ServiceState)
  | failed (record : List Byte)
  | blocks
deriving DecidableEq, Repr, Inhabited

/-- FREE VALUE (00_scope.md R13, log entry 4): the n-th drawn bit pattern. No body: nothing constrains it. -/
opaque Config.freeBits : Nat → Dword

/-- FREE VALUE (00_scope.md R13, log entries 4, 12): the n-th drawn flag. No body: nothing constrains it. -/
opaque Config.freeFlag : Nat → Bool

/-- FREE VALUE (60_exceptions.md R611, log entry 8): what the service of a claimed vector does, as a function of a
draw number (the service is a relation, so it may answer differently each time), the vector and the core state with
`IP = ret` already set. No body: nothing constrains it. -/
opaque Config.hostService : Nat → Byte → ServiceState → ServiceResult

end Sys2Proof
end

