-- ==== Sys2Proof/Syntax.lean ====
section
/-! DEFINITION. The syntax of the instruction set: registers, operands and one constructor per row of
spec/opcode_table.json (30_encoding.md R110-R127, R140-R165). -/

namespace Sys2Proof

/-- The 3-bit register code of 10_state.md R31, named by its 16-bit view. At width 8 the codes 4-7 (`sp bp si di`) name
AH, CH, DH, BH; at width 32 they name ESP ... EDI. -/
inductive Reg where
  | ax | cx | dx | bx | sp | bp | si | di
deriving DecidableEq, Repr

/-- The segment registers (10_state.md R36). -/
inductive SReg where
  | es | cs | ss | ds | fs | gs
deriving DecidableEq, Repr

/-- The register part of a memory form: the eight values of ModR/M `rm` (30_encoding.md R122). -/
inductive EABase where
  | bxSi | bxDi | bpSi | bpDi | si | di | bp | bx
deriving DecidableEq, Repr

/-- The memory forms of 30_encoding.md R122: no displacement (mod 00), the plain 16-bit displacement NNNN
(mod 00, rm 110), an 8-bit displacement (`_NN`, mod 01), a 16-bit one (`_NNNN`, mod 10). `base .bp` is no form. -/
inductive MemForm where
  | base (b : EABase)
  | direct (disp : Word)
  | disp8 (b : EABase) (disp : Byte)
  | disp16 (b : EABase) (disp : Word)
deriving DecidableEq, Repr

/-- A memory operand: its form and the segment override in force, if any (30_encoding.md R124, R125). -/
structure MemRef where
  ovr : Option SReg
  form : MemForm
deriving DecidableEq, Repr

/-- An `E` operand: a register (mod 11) or memory (30_encoding.md R123). -/
inductive RM where
  | reg (r : Reg)
  | mem (m : MemRef)
deriving DecidableEq, Repr

/-- The repetition prefix `REP` of 30_encoding.md R111: Z from F3, NZ from F2. -/
inductive RepPrefix where
  | z | nz
deriving DecidableEq, Repr

/-- The per-instruction decoder state of 10_state.md R45: segment override, operand size, repetition prefix. The
defaults are its values at the start of every instruction (30_encoding.md R130). -/
structure Prefixes where
  segOvr : Option SReg := none
  osz : OSize := .o16
  rep : Option RepPrefix := none
deriving DecidableEq, Repr

/-- A prefix byte (30_encoding.md R111). -/
inductive Prefix where
  | seg (r : SReg)
  | opSize
  | repZ
  | repNZ
deriving DecidableEq, Repr

/-- The instructions: one constructor per row of spec/opcode_table.json. `e` is an `E` operand, `g` the `reg` field, `m`
a memory-only operand, `o` the operand size of a "v" row, `imm` an immediate (`Iv` is held in 32 bits, the upper half 0
when `o` is 16), `ovr` the segment override of a row whose memory operand is implied, `d` a displacement. -/
inductive Instr where
  -- Binary ALU (40_alu_binary.md R215-R224)
  | addEbGb (e : RM) (g : Reg)
  | addEvGv (o : OSize) (e : RM) (g : Reg)
  | addGbEb (g : Reg) (e : RM)
  | addGvEv (o : OSize) (g : Reg) (e : RM)
  | addAlIb (imm : Byte)
  | addEaxIv (o : OSize) (imm : Dword)
  | orEbGb (e : RM) (g : Reg)
  | orEvGv (o : OSize) (e : RM) (g : Reg)
  | orGbEb (g : Reg) (e : RM)
  | orGvEv (o : OSize) (g : Reg) (e : RM)
  | orAlIb (imm : Byte)
  | orEaxIv (o : OSize) (imm : Dword)
  | adcEbGb (e : RM) (g : Reg)
  | adcEvGv (o : OSize) (e : RM) (g : Reg)
  | adcGbEb (g : Reg) (e : RM)
  | adcGvEv (o : OSize) (g : Reg) (e : RM)
  | adcAlIb (imm : Byte)
  | adcEaxIv (o : OSize) (imm : Dword)
  | sbbEbGb (e : RM) (g : Reg)
  | sbbEvGv (o : OSize) (e : RM) (g : Reg)
  | sbbGbEb (g : Reg) (e : RM)
  | sbbGvEv (o : OSize) (g : Reg) (e : RM)
  | sbbAlIb (imm : Byte)
  | sbbEaxIv (o : OSize) (imm : Dword)
  | andEbGb (e : RM) (g : Reg)
  | andEvGv (o : OSize) (e : RM) (g : Reg)
  | andGbEb (g : Reg) (e : RM)
  | andGvEv (o : OSize) (g : Reg) (e : RM)
  | andAlIb (imm : Byte)
  | andEaxIv (o : OSize) (imm : Dword)
  | subEbGb (e : RM) (g : Reg)
  | subEvGv (o : OSize) (e : RM) (g : Reg)
  | subGbEb (g : Reg) (e : RM)
  | subGvEv (o : OSize) (g : Reg) (e : RM)
  | subAlIb (imm : Byte)
  | subEaxIv (o : OSize) (imm : Dword)
  | xorEbGb (e : RM) (g : Reg)
  | xorEvGv (o : OSize) (e : RM) (g : Reg)
  | xorGbEb (g : Reg) (e : RM)
  | xorGvEv (o : OSize) (g : Reg) (e : RM)
  | xorAlIb (imm : Byte)
  | xorEaxIv (o : OSize) (imm : Dword)
  | cmpEbGb (e : RM) (g : Reg)
  | cmpEvGv (o : OSize) (e : RM) (g : Reg)
  | cmpGbEb (g : Reg) (e : RM)
  | cmpGvEv (o : OSize) (g : Reg) (e : RM)
  | cmpAlIb (imm : Byte)
  | cmpEaxIv (o : OSize) (imm : Dword)
  | addEbIb (e : RM) (imm : Byte)
  | addEvIv (o : OSize) (e : RM) (imm : Dword)
  | addEvSIb (o : OSize) (e : RM) (imm : Byte)
  | orEbIb (e : RM) (imm : Byte)
  | orEvIv (o : OSize) (e : RM) (imm : Dword)
  | orEvSIb (o : OSize) (e : RM) (imm : Byte)
  | adcEbIb (e : RM) (imm : Byte)
  | adcEvIv (o : OSize) (e : RM) (imm : Dword)
  | adcEvSIb (o : OSize) (e : RM) (imm : Byte)
  | sbbEbIb (e : RM) (imm : Byte)
  | sbbEvIv (o : OSize) (e : RM) (imm : Dword)
  | sbbEvSIb (o : OSize) (e : RM) (imm : Byte)
  | andEbIb (e : RM) (imm : Byte)
  | andEvIv (o : OSize) (e : RM) (imm : Dword)
  | andEvSIb (o : OSize) (e : RM) (imm : Byte)
  | subEbIb (e : RM) (imm : Byte)
  | subEvIv (o : OSize) (e : RM) (imm : Dword)
  | subEvSIb (o : OSize) (e : RM) (imm : Byte)
  | xorEbIb (e : RM) (imm : Byte)
  | xorEvIv (o : OSize) (e : RM) (imm : Dword)
  | xorEvSIb (o : OSize) (e : RM) (imm : Byte)
  | cmpEbIb (e : RM) (imm : Byte)
  | cmpEvIv (o : OSize) (e : RM) (imm : Dword)
  | cmpEvSIb (o : OSize) (e : RM) (imm : Byte)
  | testEbGb (e : RM) (g : Reg)
  | testEvGv (o : OSize) (e : RM) (g : Reg)
  | testAlIb (imm : Byte)
  | testEaxIv (o : OSize) (imm : Dword)
  | testEbIb (e : RM) (imm : Byte)
  | testEvIv (o : OSize) (e : RM) (imm : Dword)
  -- Unary ALU (41_alu_unary.md)
  | incReg (o : OSize) (r : Reg)
  | incEb (e : RM)
  | incEv (o : OSize) (e : RM)
  | decReg (o : OSize) (r : Reg)
  | decEb (e : RM)
  | decEv (o : OSize) (e : RM)
  | notEb (e : RM)
  | notEv (o : OSize) (e : RM)
  | negEb (e : RM)
  | negEv (o : OSize) (e : RM)
  -- Multiply, divide, sign extension (42_muldiv.md)
  | mulEb (e : RM)
  | mulEv (o : OSize) (e : RM)
  | imulEb (e : RM)
  | imulEv (o : OSize) (e : RM)
  | divEb (e : RM)
  | divEv (o : OSize) (e : RM)
  | idivEb (e : RM)
  | idivEv (o : OSize) (e : RM)
  -- Shifts and rotates (43_shift_rotate.md)
  | rolEbIb (e : RM) (imm : Byte)
  | rolEvIb (o : OSize) (e : RM) (imm : Byte)
  | rolEb1 (e : RM)
  | rolEv1 (o : OSize) (e : RM)
  | rolEbCl (e : RM)
  | rolEvCl (o : OSize) (e : RM)
  | rorEbIb (e : RM) (imm : Byte)
  | rorEvIb (o : OSize) (e : RM) (imm : Byte)
  | rorEb1 (e : RM)
  | rorEv1 (o : OSize) (e : RM)
  | rorEbCl (e : RM)
  | rorEvCl (o : OSize) (e : RM)
  | rclEbIb (e : RM) (imm : Byte)
  | rclEvIb (o : OSize) (e : RM) (imm : Byte)
  | rclEb1 (e : RM)
  | rclEv1 (o : OSize) (e : RM)
  | rclEbCl (e : RM)
  | rclEvCl (o : OSize) (e : RM)
  | rcrEbIb (e : RM) (imm : Byte)
  | rcrEvIb (o : OSize) (e : RM) (imm : Byte)
  | rcrEb1 (e : RM)
  | rcrEv1 (o : OSize) (e : RM)
  | rcrEbCl (e : RM)
  | rcrEvCl (o : OSize) (e : RM)
  | shlEbIb (e : RM) (imm : Byte)
  | shlEvIb (o : OSize) (e : RM) (imm : Byte)
  | shlEb1 (e : RM)
  | shlEv1 (o : OSize) (e : RM)
  | shlEbCl (e : RM)
  | shlEvCl (o : OSize) (e : RM)
  | shrEbIb (e : RM) (imm : Byte)
  | shrEvIb (o : OSize) (e : RM) (imm : Byte)
  | shrEb1 (e : RM)
  | shrEv1 (o : OSize) (e : RM)
  | shrEbCl (e : RM)
  | shrEvCl (o : OSize) (e : RM)
  | sarEbIb (e : RM) (imm : Byte)
  | sarEvIb (o : OSize) (e : RM) (imm : Byte)
  | sarEb1 (e : RM)
  | sarEv1 (o : OSize) (e : RM)
  | sarEbCl (e : RM)
  | sarEvCl (o : OSize) (e : RM)
  -- Control transfer (45_control_transfer.md)
  | jo (d : Byte)
  | jno (d : Byte)
  | jc (d : Byte)
  | jnc (d : Byte)
  | jz (d : Byte)
  | jnz (d : Byte)
  | jbe (d : Byte)
  | ja (d : Byte)
  | js (d : Byte)
  | jns (d : Byte)
  | jpe (d : Byte)
  | jpo (d : Byte)
  | jl (d : Byte)
  | jge (d : Byte)
  | jle (d : Byte)
  | jg (d : Byte)
  | loopne (d : Byte)
  | loope (d : Byte)
  | loop (d : Byte)
  | jcxz (d : Byte)
  | jmpRel16 (d : Word)
  | jmpRel8 (d : Byte)
  | jmpEv (e : RM)
  | jmpFar (sel off : Word)
  | jmpMp (m : MemRef)
  | callRel16 (d : Word)
  | callEv (e : RM)
  | callFar (sel off : Word)
  | callMp (m : MemRef)
  | retIw (n : Word)
  | retfIw (n : Word)
  | intIb (n : Byte)
  -- Strings (46_string.md)
  | movsb (ovr : Option SReg)
  | repMovsb (ovr : Option SReg)
  | movsw (ovr : Option SReg)
  | repMovsw (ovr : Option SReg)
  | movsd (ovr : Option SReg)
  | repMovsd (ovr : Option SReg)
  | cmpsb (ovr : Option SReg)
  | repeCmpsb (ovr : Option SReg)
  | repneCmpsb (ovr : Option SReg)
  | cmpsw (ovr : Option SReg)
  | repeCmpsw (ovr : Option SReg)
  | repneCmpsw (ovr : Option SReg)
  | cmpsd (ovr : Option SReg)
  | repeCmpsd (ovr : Option SReg)
  | repneCmpsd (ovr : Option SReg)
  | lodsb (ovr : Option SReg)
  | repLodsb (ovr : Option SReg)
  | lodsw (ovr : Option SReg)
  | repLodsw (ovr : Option SReg)
  | lodsd (ovr : Option SReg)
  | repLodsd (ovr : Option SReg)
  -- Data transfer, address loads, stack (47_data_transfer.md)
  | movEbGb (e : RM) (g : Reg)
  | movEvGv (o : OSize) (e : RM) (g : Reg)
  | movGbEb (g : Reg) (e : RM)
  | movGvEv (o : OSize) (g : Reg) (e : RM)
  | movRegIb (r : Reg) (imm : Byte)
  | movRegIv (o : OSize) (r : Reg) (imm : Dword)
  | movEbIb (e : RM) (imm : Byte)
  | movEvIv (o : OSize) (e : RM) (imm : Dword)
  | movAlMoffs (ovr : Option SReg) (off : Word)
  | movEaxMoffs (o : OSize) (ovr : Option SReg) (off : Word)
  | movMoffsAl (ovr : Option SReg) (off : Word)
  | movMoffsEax (o : OSize) (ovr : Option SReg) (off : Word)
  | movEwSw (e : RM) (r : SReg)
  | movSwEw (r : SReg) (e : RM)
  | xchgEbGb (e : RM) (g : Reg)
  | xchgEvGv (o : OSize) (e : RM) (g : Reg)
  | xchgEaxCx (o : OSize)
  | xchgEaxDx (o : OSize)
  | xchgEaxBx (o : OSize)
  | xchgEaxSp (o : OSize)
  | xchgEaxBp (o : OSize)
  | xchgEaxSi (o : OSize)
  | xchgEaxDi (o : OSize)
  | nop (o : OSize)
  | leaGvM (o : OSize) (g : Reg) (m : MemRef)
  | lesGvMp (o : OSize) (g : Reg) (m : MemRef)
  | ldsGvMp (o : OSize) (g : Reg) (m : MemRef)
  | lssGvMp (o : OSize) (g : Reg) (m : MemRef)
  | lfsGvMp (o : OSize) (g : Reg) (m : MemRef)
  | lgsGvMp (o : OSize) (g : Reg) (m : MemRef)
  | xlat (ovr : Option SReg)
  | pushReg (r : Reg)
  | pushEv (e : RM)
  | popReg (r : Reg)
  | popEv (e : RM)
  -- The rows without operand fields, by the same families
  | cbw | cwde | cwd | cdq
  | clc | stc | cmc | cld | std | cli | sti | lahf | sahf | pushf | popf
  | ret | retf | int3 | into | iret | hlt
  | stosb | repStosb | stosw | repStosw | stosd | repStosd | scasb | repeScasb | repneScasb | scasw
  | repeScasw | repneScasw | scasd | repeScasd | repneScasd
  | pushEs | pushCs | pushSs | pushDs | popEs | popSs | popDs
  | segEs | segCs | segSs | segDs | segFs | segGs | opSize | repE | repNe
deriving DecidableEq, Repr

/-- The prefix a prefix row stands for (30_encoding.md R111); none for an instruction row. -/
def Instr.asPrefix : Instr → Option Prefix
  | .segEs => some (.seg .es)
  | .segCs => some (.seg .cs)
  | .segSs => some (.seg .ss)
  | .segDs => some (.seg .ds)
  | .segFs => some (.seg .fs)
  | .segGs => some (.seg .gs)
  | .opSize => some (.opSize)
  | .repE => some (.repZ)
  | .repNe => some (.repNZ)
  | _ => none

/-- What a prefix byte does to the decoder state: the last segment prefix and the last repetition prefix win, 66 gives
operand size 32 (30_encoding.md R112). -/
def Prefixes.collect (p : Prefixes) : Prefix → Prefixes
  | .seg r => { p with segOvr := some r }
  | .opSize => { p with osz := .o32 }
  | .repZ => { p with rep := some .z }
  | .repNZ => { p with rep := some .nz }

end Sys2Proof
end

