-- ==== Sys2Proof/Machine/State.lean ====
section
/-! DEFINITION. The machine's state as plain data (10_state.md R48), the reasons a step stops, and the state after
reset (70_reset_and_hazards.md R700). -/

namespace Sys2Proof.Machine

/-- The eight 32-bit general registers `GPR32[0..7]` (10_state.md R30). -/
structure GPR where
  eax : Dword
  ecx : Dword
  edx : Dword
  ebx : Dword
  esp : Dword
  ebp : Dword
  esi : Dword
  edi : Dword
deriving DecidableEq, Repr

/-- The six segment registers (10_state.md R36). -/
structure SegRegs where
  es : Word
  cs : Word
  ss : Word
  ds : Word
  fs : Word
  gs : Word
deriving DecidableEq, Repr

/-- The nine flags (10_state.md R40). The image's other bits are not stored (R41). -/
structure Flags where
  CF : Bool
  PF : Bool
  AF : Bool
  ZF : Bool
  SF : Bool
  TF : Bool
  IF : Bool
  DF : Bool
  OF : Bool
deriving DecidableEq, Repr

/-- Memory as a list of address and byte pairs, addresses rising, no byte 0 listed (Memory.lean, log entry 3). -/
abbrev Memory := List Host.Cell

/-- The kind of a memory access, a part of a MemoryFault's datum (60_exceptions.md R601). -/
inductive Access where
  | fetch | read | write
deriving DecidableEq, Repr

/-- The five fault kinds with their datum (60_exceptions.md R601). -/
inductive FaultInfo where
  /-- Code 1: a byte pattern with no row; the instruction bytes fetched so far. -/
  | unhandledOpcode (bytes : List Byte)
  /-- Code 2: an operand of the wrong kind; the instruction bytes fetched so far. -/
  | malformedInstruction (bytes : List Byte)
  /-- Code 3: an access of `n` bytes at physical `p` that reaches `MEM_SIZE`. -/
  | memoryFault (p n : Nat) (access : Access)
  /-- Code 4: divisor 0, or a quotient that does not fit. -/
  | divideError
  /-- Code 5: a host service reports failure; the vector and the service's own record. -/
  | hostFault (vector : Byte) (record : List Byte)
deriving DecidableEq, Repr

/-- The fault record of 60_exceptions.md R604: kind and datum, CS, and IP at the instruction's first byte. Its code is
`FaultInfo.code`. -/
structure FaultRecord where
  info : FaultInfo
  cs : Word
  ip : Word
deriving DecidableEq, Repr

/-- The machine's state (10_state.md R48), the decoder state of the instruction in progress (R45; `k` is the count of
its bytes fetched, 30_encoding.md R130), the constant parameters (00_scope.md R9, log entry 1) and the count of free
values drawn (log entry 4). -/
structure State where
  gpr : GPR
  sreg : SegRegs
  ip : Word
  flags : Flags
  mem : Memory
  halted : Bool
  fault : Option FaultRecord
  pre : Prefixes
  k : Nat
  params : Params
  draws : Nat
deriving DecidableEq, Repr

/-- Why a step has no next state. -/
inductive Fault where
  /-- `step` on a halted core: it has no step (10_state.md R46). Raised by `step` alone. Safe: the machine stops too. -/
  | halted
  /-- `step` on a faulted core: it has no step (60_exceptions.md R602). Raised by `step` alone. Safe: the machine stops
  too. -/
  | faulted
  /-- A host service of this vector blocks forever inside its INT step (60_exceptions.md R611, log entry 9). Raised by
  INT, INT3 and INTO on a claimed vector. Safe: the step never completes on the machine either. -/
  | serviceBlocked (vector : Byte)
deriving DecidableEq, Repr

/-- Why an instruction has no meaning. -/
inductive Refusal where
  /-- `exec` on a constructor that has no meaning yet, by its mnemonic. Safe: the machine may go on. -/
  | notModelled (mnemonic : String)
deriving DecidableEq, Repr

/-- What an instruction's meaning answers. -/
abbrev Result := Host.Outcome State Fault Refusal

/-- The state right after reset: the `INIT_STATE` default of 70_reset_and_hazards.md R700 and the parameter defaults of
00_scope.md R9 (log entries 1, 2, 3). `draws` starts at 0 by choice (log entry 4). -/
def State.reset : State where
  gpr := ⟨0, 0, 0, 0, 0, 0, 0, 0⟩
  sreg := ⟨0, 0, 0, 0, 0, 0⟩
  ip := 0
  flags := ⟨false, false, false, false, false, false, false, false, false⟩
  mem := []
  halted := false
  fault := none
  pre := {}
  k := 0
  params := Params.default
  draws := 0

end Sys2Proof.Machine
end

