-- ==== Sys2Proof/Machine/Flags.lean ====
section
/-! DEFINITION. The FLAGS image (10_state.md R41) and every flag computation of the spec: the update helpers
(40_alu_binary.md R200-R213), multiply (42_muldiv.md), shifts and rotates (43_shift_rotate.md R331-R337) and the
condition predicates (45_control_transfer.md R403-R418). -/

namespace Sys2Proof.Machine

/-- The flags by name. -/
inductive FlagName where
  | CF | PF | AF | ZF | SF | TF | IF | DF | OF
deriving DecidableEq, Repr

/-- Read a flag by name. -/
def Flags.get (f : Flags) : FlagName → Bool
  | .CF => f.CF | .PF => f.PF | .AF => f.AF | .ZF => f.ZF | .SF => f.SF
  | .TF => f.TF | .IF => f.IF | .DF => f.DF | .OF => f.OF

/-- Write a flag by name. -/
def Flags.set (f : Flags) (n : FlagName) (v : Bool) : Flags :=
  match n with
  | .CF => { f with CF := v } | .PF => { f with PF := v } | .AF => { f with AF := v }
  | .ZF => { f with ZF := v } | .SF => { f with SF := v } | .TF => { f with TF := v }
  | .IF => { f with IF := v } | .DF => { f with DF := v } | .OF => { f with OF := v }

/-- `flags_image()`: bits 15-12, 5, 3, 1 read 0 (10_state.md R41). -/
def Flags.image (f : Flags) : Word :=
  0#4 ++ BitVec.ofBool f.OF ++ BitVec.ofBool f.DF ++ BitVec.ofBool f.IF ++ BitVec.ofBool f.TF ++
    BitVec.ofBool f.SF ++ BitVec.ofBool f.ZF ++ 0#1 ++ BitVec.ofBool f.AF ++ 0#1 ++ BitVec.ofBool f.PF ++ 0#1 ++
    BitVec.ofBool f.CF

/-- `flags_write(v)`: the nine named flags; the other bits are ignored (10_state.md R41). -/
def Flags.ofImage (v : Word) : Flags where
  CF := v.getLsbD 0
  PF := v.getLsbD 2
  AF := v.getLsbD 4
  ZF := v.getLsbD 6
  SF := v.getLsbD 7
  TF := v.getLsbD 8
  IF := v.getLsbD 9
  DF := v.getLsbD 10
  OF := v.getLsbD 11

/-- SAHF: the flags of CF, PF, AF, ZF, SF whose bit is set in the mask take the bit of AH (44_flag_ops.md R382). -/
def Flags.overlay (f : Flags) (mask ah : Byte) : Flags :=
  let pick (i : Nat) (old : Bool) : Bool := if mask.getLsbD i then ah.getLsbD i else old
  { f with CF := pick 0 f.CF, PF := pick 2 f.PF, AF := pick 4 f.AF, ZF := pick 6 f.ZF, SF := pick 7 f.SF }

/-- An even number of 1 bits (40_alu_binary.md R201). -/
def evenParity (b : Byte) : Bool :=
  !(b.getLsbD 0 ^^ b.getLsbD 1 ^^ b.getLsbD 2 ^^ b.getLsbD 3 ^^ b.getLsbD 4 ^^ b.getLsbD 5 ^^ b.getLsbD 6 ^^ b.getLsbD 7)

/-- `SZP(r, w)` (40_alu_binary.md R201). -/
def Flags.szp {n : Nat} (f : Flags) (r : BitVec n) : Flags :=
  { f with SF := r.msb, ZF := r == 0#n, PF := evenParity (r.setWidth 8) }

/-- An exact result outside the signed range of n bits. -/
def signedOverflow (n : Nat) (x : Int) : Bool := decide (x < -(2 : Int) ^ (n - 1) ∨ (2 : Int) ^ (n - 1) - 1 < x)

/-- `updateADD(a, b, cin, w)` (40_alu_binary.md R202). -/
def updateADD {n : Nat} (a b : BitVec n) (cin : Bool) (f : Flags) : BitVec n × Flags :=
  let s := a.toNat + b.toNat + cin.toNat
  let r := BitVec.ofNat n s
  (r, { f with CF := decide (2 ^ n ≤ s), OF := signedOverflow n (a.toInt + b.toInt + cin.toNat) }.szp r)

/-- `updateSUB(a, b, bin, w)` (40_alu_binary.md R203). -/
def updateSUB {n : Nat} (a b : BitVec n) (bin : Bool) (f : Flags) : BitVec n × Flags :=
  let r := BitVec.ofInt n ((a.toNat : Int) - b.toNat - bin.toNat)
  (r, { f with CF := decide (a.toNat < b.toNat + bin.toNat),
               OF := signedOverflow n (a.toInt - b.toInt - bin.toNat) }.szp r)

/-- `updateAND(a, b, w)` (40_alu_binary.md R204): under SOURCE, CF is `r = a + b` and OF is `r > a + b`, unbounded. -/
def updateAND {n : Nat} (policy : AndFlagPolicy) (a b : BitVec n) (f : Flags) : BitVec n × Flags :=
  let r := a &&& b
  let f := f.szp r
  match policy with
  | .source => (r, { f with CF := decide (r.toNat = a.toNat + b.toNat), OF := decide (a.toNat + b.toNat < r.toNat) })
  | .x86 => (r, { f with CF := false, OF := false })

/-- `updateOR(a, b, w)` (40_alu_binary.md R205). -/
def updateOR {n : Nat} (a b : BitVec n) (f : Flags) : BitVec n × Flags :=
  (a ||| b, { f.szp (a ||| b) with CF := false, OF := false })

/-- `updateXOR(a, b, w)` (40_alu_binary.md R206). -/
def updateXOR {n : Nat} (a b : BitVec n) (f : Flags) : BitVec n × Flags :=
  (a ^^^ b, { f.szp (a ^^^ b) with CF := false, OF := false })

/-- `updateINC(a, w)` (40_alu_binary.md R207). -/
def updateINC {n : Nat} (policy : IncDecCf) (a : BitVec n) (f : Flags) : BitVec n × Flags :=
  let r := BitVec.ofNat n (a.toNat + 1)
  let f := { f with OF := decide (a.toNat = 2 ^ (n - 1) - 1) }.szp r
  match policy with
  | .written => (r, { f with CF := decide (a.toNat = 2 ^ n - 1) })
  | .preserved => (r, f)

/-- `updateDEC(a, w)` (40_alu_binary.md R208). -/
def updateDEC {n : Nat} (policy : IncDecCf) (a : BitVec n) (f : Flags) : BitVec n × Flags :=
  let r := BitVec.ofInt n ((a.toNat : Int) - 1)
  let f := { f with OF := decide (a.toNat = 2 ^ (n - 1)) }.szp r
  match policy with
  | .written => (r, { f with CF := decide (a.toNat = 0) })
  | .preserved => (r, f)

/-- `compare(a, b, w)`: the flags of the subtraction, its result discarded (40_alu_binary.md R209). -/
def compareFlags {n : Nat} (a b : BitVec n) (f : Flags) : Flags := (updateSUB a b false f).2

/-- The flags a helper of R202-R209 may write, for 60_exceptions.md R603. -/
def arithFlags : List FlagName := [.CF, .OF, .SF, .ZF, .PF]

/-- The binary ALU operations of 40_alu_binary.md R216-R223. -/
inductive BinOp where
  | add | or | adc | sbb | and | sub | xor | cmp
deriving DecidableEq, Repr

/-- The helper of a binary operation: result and flags (40_alu_binary.md R216-R223). -/
def BinOp.apply {n : Nat} (op : BinOp) (p : Params) (a b : BitVec n) (f : Flags) : BitVec n × Flags :=
  match op with
  | .add => updateADD a b false f
  | .or => updateOR a b f
  | .adc => updateADD a b f.CF f
  | .sbb => updateSUB a b f.CF f
  | .and => updateAND p.andFlagPolicy a b f
  | .sub => updateSUB a b false f
  | .xor => updateXOR a b f
  | .cmp => updateSUB a b false f

/-- The unary ALU operations of 41_alu_unary.md. -/
inductive UnOp where
  | inc | dec | not | neg
deriving DecidableEq, Repr

/-- Result and flags of a unary operation (41_alu_unary.md R250-R253). -/
def UnOp.apply {n : Nat} (op : UnOp) (p : Params) (a : BitVec n) (f : Flags) : BitVec n × Flags :=
  match op with
  | .inc => updateINC p.incDecCf a f
  | .dec => updateDEC p.incDecCf a f
  | .not => (~~~a, f)
  | .neg => updateSUB 0#n a false f

/-- The shifts and rotates of 43_shift_rotate.md. -/
inductive ShiftOp where
  | rol | ror | rcl | rcr | shl | shr | sar
deriving DecidableEq, Repr

/-- SHL, SHR and SAR write SF, ZF, PF; the rotates do not (43_shift_rotate.md R330). -/
def ShiftOp.isShift : ShiftOp → Bool
  | .shl | .shr | .sar => true
  | .rol | .ror | .rcl | .rcr => false

/-- What a shift or rotate by a masked count `c ≠ 0` gives: no change (c' = 0); result, CF' and OF'; or, for RCL under
UNSPECIFIED, any result and any CF' (43_shift_rotate.md R330-R337). -/
inductive ShiftOut (n : Nat) where
  | unchanged
  | value (r : BitVec n) (cf of : Bool)
  | anyValue
deriving DecidableEq, Repr

/-- `c` one-bit rotates left through carry (43_shift_rotate.md R336). -/
def rotateCarryLeft {n : Nat} : Nat → BitVec n → Bool → BitVec n × Bool
  | 0, x, f => (x, f)
  | c + 1, x, f => rotateCarryLeft c ((x <<< 1) ||| (BitVec.ofBool f).setWidth n) x.msb

/-- `c` one-bit rotates right through carry (43_shift_rotate.md R337). -/
def rotateCarryRight {n : Nat} : Nat → BitVec n → Bool → BitVec n × Bool
  | 0, x, f => (x, f)
  | c + 1, x, f => rotateCarryRight c (((BitVec.ofBool f).setWidth n <<< (n - 1)) ||| (x >>> 1)) (x.getLsbD 0)

/-- The count of RCL and RCR: `c mod (w + 1)`, or `c` for w = 32 (43_shift_rotate.md R336, R337). -/
def carryCount (n c : Nat) : Nat := if n = 32 then c else c % (n + 1)

/-- The operation of each rule on operand `a`, masked count `c ≠ 0` and the old CF (43_shift_rotate.md R331-R337). -/
def ShiftOp.apply {n : Nat} (op : ShiftOp) (mode : RclMultiBit) (a : BitVec n) (c : Nat) (cf : Bool) : ShiftOut n :=
  match op with
  | .shl =>
    let r := a <<< c
    let cf' := if c ≤ n then a.getLsbD (n - c) else false
    .value r cf' (r.msb ^^ cf')
  | .shr => .value (a >>> c) (if c ≤ n then a.getLsbD (c - 1) else false) a.msb
  | .sar => .value (a.sshiftRight c) (if c ≤ n then a.getLsbD (c - 1) else a.msb) false
  | .rol =>
    let k := c % n
    let r := (a <<< k) ||| (a >>> (n - k))
    .value r (r.getLsbD 0) (r.msb ^^ r.getLsbD 0)
  | .ror =>
    let k := c % n
    let r := (a >>> k) ||| (a <<< (n - k))
    .value r (r.getLsbD (n - 1)) (r.getLsbD (n - 1) ^^ r.getLsbD (n - 2))
  | .rcl =>
    let c' := carryCount n c
    if c' = 0 then .unchanged
    else if 1 < c' ∧ mode = .unspecified then .anyValue
    else
      let (r, cf') := rotateCarryLeft c' a cf
      .value r cf' (r.msb ^^ cf')
  | .rcr =>
    let c' := carryCount n c
    if c' = 0 then .unchanged
    else
      let (r, cf') := rotateCarryRight c' a cf
      .value r cf' (r.getLsbD (n - 1) ^^ r.getLsbD (n - 2))

/-- The conditions of the sixteen conditional jumps (45_control_transfer.md R403-R418). -/
inductive Cond where
  | jo | jno | jc | jnc | jz | jnz | jbe | ja | js | jns | jpe | jpo | jl | jge | jle | jg
deriving DecidableEq, Repr

/-- The predicate of a conditional jump (45_control_transfer.md R403-R418). -/
def Cond.holds (c : Cond) (f : Flags) : Bool :=
  match c with
  | .jo => f.OF
  | .jno => !f.OF
  | .jc => f.CF
  | .jnc => !f.CF
  | .jz => f.ZF
  | .jnz => !f.ZF
  | .jbe => f.CF || f.ZF
  | .ja => !f.CF && !f.ZF
  | .js => f.SF
  | .jns => !f.SF
  | .jpe => f.PF
  | .jpo => !f.PF
  | .jl => f.SF != f.OF
  | .jge => f.SF == f.OF
  | .jle => f.ZF || (f.SF != f.OF)
  | .jg => !f.ZF && (f.SF == f.OF)

end Sys2Proof.Machine
end

