-- ==== Sys2Proof/Machine/Memory.lean ====
section
/-! DEFINITION. Bytes of memory in one canonical form, little-endian loads and stores, translation
(20_memory.md R70-R76). -/

namespace Sys2Proof.Machine

/-- What an unlisted address reads as: the reset contents (70_reset_and_hazards.md R700, log entry 3). -/
def Memory.unlisted : Byte := 0#8

/-- The canonical form: addresses strictly rising, no entry equal to what an unlisted address reads as. -/
abbrev Memory.wf (m : Memory) : Prop :=
  m.Pairwise (fun x y => x.1 < y.1) ∧ ∀ c ∈ m, c.2 ≠ Memory.unlisted

/-- `MEM[p]`. -/
def Memory.read : Memory → Nat → Byte
  | [], _ => Memory.unlisted
  | c :: m, p => if c.1 = p then c.2 else Memory.read m p

/-- `MEM[p] <- v`, in canonical form. -/
def Memory.write : Memory → Nat → Byte → Memory
  | [], p, v => if v = Memory.unlisted then [] else [(p, v)]
  | c :: m, p, v =>
    if p < c.1 then (if v = Memory.unlisted then c :: m else (p, v) :: c :: m)
    else if c.1 = p then (if v = Memory.unlisted then m else (p, v) :: m)
    else c :: Memory.write m p v

/-- `MEM[p] | MEM[p+1] << 8 | ...`, n bytes, little-endian (20_memory.md R74, R76). -/
def Memory.load (m : Memory) (p : Nat) : Nat → Nat
  | 0 => 0
  | n + 1 => Memory.load m p n + (Memory.read m (p + n)).toNat * 2 ^ (8 * n)

/-- `MEM[p+j] <- v[8j+7 : 8j]` for j = 0 .. n-1 (20_memory.md R74). -/
def Memory.store (m : Memory) (p v : Nat) : Nat → Memory
  | 0 => m
  | n + 1 => Memory.write (Memory.store m p v n) (p + n) (BitVec.ofNat 8 (v / 2 ^ (8 * n)))

/-- The physical address `segment * 0x10 + offset`, not reduced (20_memory.md R72, R73). -/
def phys (seg off : Word) : Nat := seg.toNat * 0x10 + off.toNat

/-- The addresses of the n bytes at `p`. -/
def byteRange (p n : Nat) : List Nat := (List.range n).map (p + ·)

end Sys2Proof.Machine
end

