-- ==== Sys2Proof/Machine/Ops.lean ====
section
/-! DEFINITION. The shared operations: register views (10_state.md R31, R32), completion, free values and fault entry
(60_exceptions.md R602-R604), bounds-checked memory (20_memory.md R74), the stack (47_data_transfer.md R520), the
software interrupt and its return (60_exceptions.md R610-R612). -/

namespace Sys2Proof.Machine

/-! ## Registers -/

/-- `r32(i)` (10_state.md R31). -/
def GPR.get (g : GPR) : Reg → Dword
  | .ax => g.eax | .cx => g.ecx | .dx => g.edx | .bx => g.ebx
  | .sp => g.esp | .bp => g.ebp | .si => g.esi | .di => g.edi

/-- `r32(i) <- v` (10_state.md R32). -/
def GPR.set (g : GPR) (r : Reg) (v : Dword) : GPR :=
  match r with
  | .ax => { g with eax := v } | .cx => { g with ecx := v } | .dx => { g with edx := v } | .bx => { g with ebx := v }
  | .sp => { g with esp := v } | .bp => { g with ebp := v } | .si => { g with esi := v } | .di => { g with edi := v }

/-- The 32-bit register an 8-bit code lies in: codes 4-7 are the high bytes of registers 0-3 (10_state.md R31). -/
def byteParent : Reg → Reg
  | .ax | .sp => .ax
  | .cx | .bp => .cx
  | .dx | .si => .dx
  | .bx | .di => .bx

/-- Whether an 8-bit code names a high byte, bits 15:8 (10_state.md R31). -/
def isHighByte : Reg → Bool
  | .ax | .cx | .dx | .bx => false
  | .sp | .bp | .si | .di => true

/-- `r8(i)` (10_state.md R31). -/
def GPR.get8 (g : GPR) (r : Reg) : Byte :=
  (g.get (byteParent r)).extractLsb' (if isHighByte r then 8 else 0) 8

/-- `r8(i) <- v` changes those 8 bits only (10_state.md R32). -/
def GPR.set8 (g : GPR) (r : Reg) (v : Byte) : GPR :=
  let x := g.get (byteParent r)
  g.set (byteParent r)
    (if isHighByte r then x.extractLsb' 16 16 ++ v ++ x.extractLsb' 0 8 else x.extractLsb' 8 24 ++ v)

/-- `r16(i)` (10_state.md R31). -/
def GPR.get16 (g : GPR) (r : Reg) : Word := (g.get r).extractLsb' 0 16

/-- `r16(i) <- v` changes bits 15:0 only (10_state.md R32). -/
def GPR.set16 (g : GPR) (r : Reg) (v : Word) : GPR := g.set r ((g.get r).extractLsb' 16 16 ++ v)

/-- `SREG[s]` (10_state.md R36). -/
def SegRegs.get (g : SegRegs) : SReg → Word
  | .es => g.es | .cs => g.cs | .ss => g.ss | .ds => g.ds | .fs => g.fs | .gs => g.gs

/-- `SREG[s] <- v`. -/
def SegRegs.set (g : SegRegs) (r : SReg) (v : Word) : SegRegs :=
  match r with
  | .es => { g with es := v } | .cs => { g with cs := v } | .ss => { g with ss := v }
  | .ds => { g with ds := v } | .fs => { g with fs := v } | .gs => { g with gs := v }

/-- `reg(w, i)` (00_scope.md R11). -/
def readReg (w : Width) (r : Reg) (s : State) : BitVec w.bits :=
  match w with
  | .w8 => s.gpr.get8 r
  | .w16 => s.gpr.get16 r
  | .w32 => s.gpr.get r

/-- Replace the general registers. -/
def State.setGpr (s : State) (g : GPR) : State := { s with gpr := g }

/-- `reg(w, i) <- v` writes that view only (00_scope.md R11). -/
def writeReg (w : Width) (r : Reg) (v : BitVec w.bits) (s : State) : State :=
  match w, v with
  | .w8, v => s.setGpr (s.gpr.set8 r v)
  | .w16, v => s.setGpr (s.gpr.set16 r v)
  | .w32, v => s.setGpr (s.gpr.set r v)

/-- `SREG[r] <- v`. -/
def State.setSreg (s : State) (r : SReg) (v : Word) : State := { s with sreg := s.sreg.set r v }

/-- Replace the flags. -/
def State.setFlags (s : State) (f : Flags) : State := { s with flags := f }

/-- Replace memory. -/
def State.setMem (s : State) (m : Memory) : State := { s with mem := m }

/-- `IP <- v`. -/
def State.setIp (s : State) (v : Word) : State := { s with ip := v }

/-- Replace the decoder state. -/
def State.setPre (s : State) (p : Prefixes) : State := { s with pre := p }

/-- `IP_next`: the offset after the instruction's last byte, modulo 0x10000 (30_encoding.md R131). -/
def State.ipNext (s : State) : Word := s.ip + BitVec.ofNat 16 s.k

/-- Forget the decoder state: no override, operand size 16, no repetition (10_state.md R45, 60_exceptions.md R606). -/
def State.endInstr (s : State) : State := { s with pre := {}, k := 0 }

/-- An instruction completes: `IP <- IP_next` (30_encoding.md R131). -/
def done (s : State) : Result := .next (s.setIp s.ipNext)

/-- A prefix byte sets its part of the decoder state for the instruction it precedes (30_encoding.md R111-R115); IP
stays at the first byte (10_state.md R38). -/
def collectPrefix (q : Prefix) (s : State) : Result := .next (s.setPre (s.pre.collect q))

/-! ## Free values and faults -/

/-- One free value has been drawn (log entry 4). -/
def State.draw (s : State) : State := { s with draws := s.draws + 1 }

/-- A place an instruction writes. -/
inductive Place where
  | reg (w : Width) (r : Reg)
  | sreg (r : SReg)
  | flag (n : FlagName)
  | byte (p : Nat)
deriving DecidableEq, Repr

/-- Give a place any value (60_exceptions.md R603): the next free value. -/
def spoilPlace (s : State) : Place → State
  | .reg w r => (writeReg w r ((Config.freeBits s.draws).setWidth w.bits) s).draw
  | .sreg r => (s.setSreg r ((Config.freeBits s.draws).setWidth 16)).draw
  | .flag n => (s.setFlags (s.flags.set n (Config.freeFlag s.draws))).draw
  | .byte p =>
    (if p < s.params.memSize then s.setMem (Memory.write s.mem p ((Config.freeBits s.draws).setWidth 8)) else s).draw

/-- Give each of the places any value, one after the other. -/
def spoil (s : State) (ps : List Place) : State := ps.foldl spoilPlace s

/-- The fault code (60_exceptions.md R601). -/
def FaultInfo.code : FaultInfo → Nat
  | .unhandledOpcode _ => 1
  | .malformedInstruction _ => 2
  | .memoryFault _ _ _ => 3
  | .divideError => 4
  | .hostFault _ _ => 5

/-- The in-range bytes of a faulting multi-byte write (60_exceptions.md R603). -/
def FaultInfo.partBytes (memSize : Nat) : FaultInfo → List Place
  | .memoryFault p n .write => (byteRange p (min n (memSize - p))).map .byte
  | _ => []

/-- FAULT ENTRY, `raise K(info)` (60_exceptions.md R602-R604). `s` is the state the instruction started in, so IP is at
its first byte; `earlier` are the places its pseudocode writes before the failing step, which take any value, as do the
in-range bytes of the write that fails (log entry 7). The mark is set with the record, the decoder state cleared;
everything else is as at the start. -/
def raise (info : FaultInfo) (earlier : List Place) (s : State) : Result :=
  .next { (spoil s (earlier ++ info.partBytes s.params.memSize)).endInstr with fault := some ⟨info, s.sreg.cs, s.ip⟩ }

/-- Go on with the value of a step that may raise; `earlier` are the places written before it. -/
def orRaise {α : Type} (s : State) (earlier : List Place) (x : Except FaultInfo α) (k : α → Result) : Result :=
  match x with
  | .ok a => k a
  | .error c => raise c earlier s

/-! ## Memory -/

/-- `MemRead(p, w/8)` (20_memory.md R74). -/
def memRead (w : Width) (p : Nat) (s : State) : Except FaultInfo (BitVec w.bits) :=
  if s.params.memSize ≤ p + w.bytes - 1 then .error (.memoryFault p w.bytes .read)
  else .ok (BitVec.ofNat w.bits (Memory.load s.mem p w.bytes))

/-- `MemWrite(p, w/8, v)` (20_memory.md R74). -/
def memWrite (w : Width) (p : Nat) (v : BitVec w.bits) (s : State) : Except FaultInfo State :=
  if s.params.memSize ≤ p + w.bytes - 1 then .error (.memoryFault p w.bytes .write)
  else .ok (s.setMem (Memory.store s.mem p v.toNat w.bytes))

/-! ## The stack -/

/-- SP. -/
def State.sp (s : State) : Word := s.gpr.get16 .sp

/-- `push16(v)`: SP changes after the write (47_data_transfer.md R520). -/
def push16 (v : Word) (s : State) : Except FaultInfo State :=
  match memWrite .w16 (phys s.sreg.ss (s.sp - 2#16)) v s with
  | .error c => .error c
  | .ok t => .ok (writeReg .w16 .sp (s.sp - 2#16) t)

/-- `pop16()` (47_data_transfer.md R520). -/
def pop16 (s : State) : Except FaultInfo (Word × State) :=
  match memRead .w16 (phys s.sreg.ss s.sp) s with
  | .error c => .error c
  | .ok v => .ok (v, writeReg .w16 .sp (s.sp + 2#16) s)

/-- PUSH of a value: `push16(v); IP <- IP_next` (47_data_transfer.md R521, R522; 44_flag_ops.md R383). -/
def pushValue (v : Word) (s : State) : Result := orRaise s [] (push16 v s) done

/-- The bytes of the j-th word pushed from `s` on, j = 1, 2, 3. -/
def stackWord (s : State) (j : Nat) : List Nat := byteRange (phys s.sreg.ss (s.sp - BitVec.ofNat 16 (2 * j))) 2

/-- What `n` pushes from `s` on write: SP and n words (for 60_exceptions.md R603). -/
def pushedPlaces (s : State) (n : Nat) : List Place :=
  .reg .w16 .sp :: ((List.range n).flatMap fun j => stackWord s (j + 1)).map .byte

/-! ## Software interrupts -/

/-- The core state a host service sees (60_exceptions.md R611). -/
def State.toService (s : State) : ServiceState where
  eax := s.gpr.eax
  ecx := s.gpr.ecx
  edx := s.gpr.edx
  ebx := s.gpr.ebx
  esp := s.gpr.esp
  ebp := s.gpr.ebp
  esi := s.gpr.esi
  edi := s.gpr.edi
  es := s.sreg.es
  cs := s.sreg.cs
  ss := s.sreg.ss
  ds := s.sreg.ds
  fs := s.sreg.fs
  gs := s.sreg.gs
  ip := s.ip
  flags := s.flags.image
  mem := s.mem

/-- The memory a service leaves: the bytes it lists below `MEM_SIZE`, in canonical form. -/
def memoryOfCells (memSize : Nat) (cells : List Host.Cell) : Memory :=
  cells.foldl (fun m c => if c.1 < memSize then Memory.write m c.1 c.2 else m) []

/-- The state a service leaves: registers, flags and memory are its own; `halted`, `fault` and the decoder state are
not (60_exceptions.md R611). -/
def State.ofService (s : State) (t : ServiceState) : State :=
  { s with
    gpr := ⟨t.eax, t.ecx, t.edx, t.ebx, t.esp, t.ebp, t.esi, t.edi⟩
    sreg := ⟨t.es, t.cs, t.ss, t.ds, t.fs, t.gs⟩
    ip := t.ip
    flags := Flags.ofImage t.flags
    mem := memoryOfCells s.params.memSize t.mem }

/-- `host_service(n, ret)` with `ret = IP_next` (60_exceptions.md R610, R611): what the service does is a free value. -/
def hostService (n : Byte) (s : State) : Result :=
  match Config.hostService s.draws n (s.setIp s.ipNext).toService with
  | .done t => .next (s.ofService t).draw
  | .failed record => raise (.hostFault n record) [] s.draw
  | .blocks => .fault (.serviceBlocked n)

/-- The real-mode entry of `interrupt(n, ret)`, `ret = IP_next` (60_exceptions.md R610): push the FLAGS image, clear IF
and TF, push CS, push the return offset, load IP and CS from the vector at physical 4n. -/
def enterVector (n : Byte) (s : State) : Result :=
  orRaise s [] (push16 s.flags.image s) fun s1 =>
  let s2 := s1.setFlags { s1.flags with IF := false, TF := false }
  let cleared := [Place.flag .IF, Place.flag .TF]
  orRaise s (pushedPlaces s 1 ++ cleared) (push16 s.sreg.cs s2) fun s3 =>
  orRaise s (pushedPlaces s 2 ++ cleared) (push16 s.ipNext s3) fun s4 =>
  orRaise s (pushedPlaces s 3 ++ cleared) (memRead .w16 (4 * n.toNat) s4) fun off =>
  orRaise s (pushedPlaces s 3 ++ cleared) (memRead .w16 (4 * n.toNat + 2) s4) fun seg =>
  .next ((s4.setIp off).setSreg .cs seg)

/-- TAKING A SOFTWARE INTERRUPT, `interrupt(n, IP_next)` (60_exceptions.md R610): a host service where `HOST_INT` claims
n, else the real-mode entry. -/
def interrupt (n : Byte) (s : State) : Result :=
  if s.params.hostInt.contains n then hostService n s else enterVector n s

/-- RETURNING FROM ONE (45_control_transfer.md R443): `IP <- pop16(); CS <- pop16(); flags_write(pop16())`. -/
def interruptReturn (s : State) : Result :=
  orRaise s [] (pop16 s) fun (off, s1) =>
  orRaise s [.reg .w16 .sp] (pop16 s1) fun (seg, s2) =>
  orRaise s [.reg .w16 .sp, .sreg .cs] (pop16 s2) fun (image, s3) =>
  .next (((s3.setIp off).setSreg .cs seg).setFlags (Flags.ofImage image))

end Sys2Proof.Machine
end

