-- ==== Sys2Proof/Machine/Operands.lean ====
section
/-! DEFINITION. Operands (30_encoding.md R120-R127): effective addresses, segments, reading and writing, far pointers. -/

namespace Sys2Proof.Machine

/-- An operand after decoding and address computation (30_encoding.md R120). -/
inductive Operand where
  | reg (r : Reg)
  | mem (seg : SReg) (off : Word)
  | imm (v : Dword)
  | seg (r : SReg)
deriving DecidableEq, Repr

/-- Base plus index, the registers read as 16-bit values (30_encoding.md R122, R124). -/
def baseValue (b : EABase) (g : GPR) : Word :=
  match b with
  | .bxSi => g.get16 .bx + g.get16 .si
  | .bxDi => g.get16 .bx + g.get16 .di
  | .bpSi => g.get16 .bp + g.get16 .si
  | .bpDi => g.get16 .bp + g.get16 .di
  | .si => g.get16 .si
  | .di => g.get16 .di
  | .bp => g.get16 .bp
  | .bx => g.get16 .bx

/-- The BP-based registers of 30_encoding.md R122. -/
def baseUsesBp : EABase → Bool
  | .bpSi | .bpDi | .bp => true
  | .bxSi | .bxDi | .si | .di | .bx => false

/-- The effective address, modulo 0x10000; an 8-bit displacement is sign-extended (30_encoding.md R124). -/
def formAddress (f : MemForm) (g : GPR) : Word :=
  match f with
  | .base b => baseValue b g
  | .direct d => d
  | .disp8 b d => baseValue b g + d.signExtend 16
  | .disp16 b d => baseValue b g + d

/-- Whether a form is BP-based (30_encoding.md R122). -/
def formUsesBp : MemForm → Bool
  | .base b => baseUsesBp b
  | .direct _ => false
  | .disp8 b _ => baseUsesBp b
  | .disp16 b _ => baseUsesBp b

/-- The form's default segment: DS, or SS for a BP-based form under `BP_DEFAULT_SEG = SS` (30_encoding.md R122). -/
def defaultSeg (p : Params) (f : MemForm) : SReg :=
  match p.bpDefaultSeg with
  | .ds => .ds
  | .ss => if formUsesBp f then .ss else .ds

/-- The segment of a memory operand: the override, else the default (30_encoding.md R125). -/
def memSeg (m : MemRef) (p : Params) : SReg := m.ovr.getD (defaultSeg p m.form)

/-- The effective address of a memory operand. -/
def memAddress (m : MemRef) (s : State) : Word := formAddress m.form s.gpr

/-- The operand an `E` operand names when the instruction starts (30_encoding.md R123-R125). -/
def operandOf (e : RM) (s : State) : Operand :=
  match e with
  | .reg r => .reg r
  | .mem m => .mem (memSeg m s.params) (memAddress m s)

/-- The operand of a `moffs` field: segment DS, overridable (30_encoding.md R126). -/
def moffsOperand (ovr : Option SReg) (off : Word) : Operand := .mem (ovr.getD .ds) off

/-- The physical address of a segment register and an offset. -/
def State.addr (s : State) (seg : SReg) (off : Word) : Nat := phys (s.sreg.get seg) off

/-- `Read(op)` at width w (30_encoding.md R120). -/
def readOp (w : Width) (op : Operand) (s : State) : Except FaultInfo (BitVec w.bits) :=
  match op with
  | .reg r => .ok (readReg w r s)
  | .mem seg off => memRead w (s.addr seg off) s
  | .imm v => .ok (v.setWidth w.bits)
  | .seg r => .ok ((s.sreg.get r).setWidth w.bits)

/-- `Write(op, v)` at width w (30_encoding.md R120). An immediate is never a destination. -/
def writeOp (w : Width) (op : Operand) (v : BitVec w.bits) (s : State) : Except FaultInfo State :=
  match op with
  | .reg r => .ok (writeReg w r v s)
  | .mem seg off => memWrite w (s.addr seg off) v s
  | .imm _ => .ok s
  | .seg r => .ok (s.setSreg r (v.setWidth 16))

/-- The far pointer at (seg, off): an offset of width w, then the segment word at (off + w/8) mod 0x10000
(47_data_transfer.md R505, R506; 45_control_transfer.md R401). -/
def readFarPointer (w : Width) (seg : SReg) (off : Word) (s : State) : Except FaultInfo (BitVec w.bits × Word) :=
  match memRead w (s.addr seg off) s with
  | .error c => .error c
  | .ok v =>
    match memRead .w16 (s.addr seg (off + BitVec.ofNat 16 w.bytes)) s with
    | .error c => .error c
    | .ok sel => .ok (v, sel)

end Sys2Proof.Machine
end

