-- ==== Sys2Proof/Machine/AluBinary.lean ====
section
/-! DEFINITION. Binary ALU instructions and TEST (40_alu_binary.md R215-R224). -/

namespace Sys2Proof.Machine

/-- The common execution of 40_alu_binary.md R215: read both operands, compute with the helper, write the flags and,
but for CMP, the result. -/
def binaryAlu (op : BinOp) (w : Width) (dst src : Operand) (s : State) : Result :=
  orRaise s [] (readOp w dst s) fun a =>
  orRaise s [] (readOp w src s) fun b =>
  let out := op.apply s.params a b s.flags
  match op with
  | .cmp => done (s.setFlags out.2)
  | _ => orRaise s (arithFlags.map .flag) (writeOp w dst out.1 (s.setFlags out.2)) done

/-- TEST: the flags of AND, no result (40_alu_binary.md R224). -/
def testAlu (w : Width) (dst src : Operand) (s : State) : Result :=
  orRaise s [] (readOp w dst s) fun a =>
  orRaise s [] (readOp w src s) fun b =>
  done (s.setFlags (updateAND s.params.andFlagPolicy a b s.flags).2)

/-- ADD (R216), Eb, Gb: opcode 0x00. -/
def execAddEbGb (e : RM) (g : Reg) (s : State) : Result := binaryAlu .add .w8 (operandOf e s) (.reg g) s

/-- ADD (R216), Ev, Gv: opcode 0x01. -/
def execAddEvGv (o : OSize) (e : RM) (g : Reg) (s : State) : Result := binaryAlu .add o.width (operandOf e s) (.reg g) s

/-- ADD (R216), Gb, Eb: opcode 0x02. -/
def execAddGbEb (g : Reg) (e : RM) (s : State) : Result := binaryAlu .add .w8 (.reg g) (operandOf e s) s

/-- ADD (R216), Gv, Ev: opcode 0x03. -/
def execAddGvEv (o : OSize) (g : Reg) (e : RM) (s : State) : Result := binaryAlu .add o.width (.reg g) (operandOf e s) s

/-- ADD (R216), AL, Ib: opcode 0x04. -/
def execAddAlIb (imm : Byte) (s : State) : Result := binaryAlu .add .w8 (.reg .ax) (.imm (imm.setWidth 32)) s

/-- ADD (R216), eAX, Iv: opcode 0x05. -/
def execAddEaxIv (o : OSize) (imm : Dword) (s : State) : Result := binaryAlu .add o.width (.reg .ax) (.imm imm) s

/-- OR (R222), Eb, Gb: opcode 0x08. -/
def execOrEbGb (e : RM) (g : Reg) (s : State) : Result := binaryAlu .or .w8 (operandOf e s) (.reg g) s

/-- OR (R222), Ev, Gv: opcode 0x09. -/
def execOrEvGv (o : OSize) (e : RM) (g : Reg) (s : State) : Result := binaryAlu .or o.width (operandOf e s) (.reg g) s

/-- OR (R222), Gb, Eb: opcode 0x0A. -/
def execOrGbEb (g : Reg) (e : RM) (s : State) : Result := binaryAlu .or .w8 (.reg g) (operandOf e s) s

/-- OR (R222), Gv, Ev: opcode 0x0B. -/
def execOrGvEv (o : OSize) (g : Reg) (e : RM) (s : State) : Result := binaryAlu .or o.width (.reg g) (operandOf e s) s

/-- OR (R222), AL, Ib: opcode 0x0C. -/
def execOrAlIb (imm : Byte) (s : State) : Result := binaryAlu .or .w8 (.reg .ax) (.imm (imm.setWidth 32)) s

/-- OR (R222), eAX, Iv: opcode 0x0D. -/
def execOrEaxIv (o : OSize) (imm : Dword) (s : State) : Result := binaryAlu .or o.width (.reg .ax) (.imm imm) s

/-- ADC (R217), Eb, Gb: opcode 0x10. -/
def execAdcEbGb (e : RM) (g : Reg) (s : State) : Result := binaryAlu .adc .w8 (operandOf e s) (.reg g) s

/-- ADC (R217), Ev, Gv: opcode 0x11. -/
def execAdcEvGv (o : OSize) (e : RM) (g : Reg) (s : State) : Result := binaryAlu .adc o.width (operandOf e s) (.reg g) s

/-- ADC (R217), Gb, Eb: opcode 0x12. -/
def execAdcGbEb (g : Reg) (e : RM) (s : State) : Result := binaryAlu .adc .w8 (.reg g) (operandOf e s) s

/-- ADC (R217), Gv, Ev: opcode 0x13. -/
def execAdcGvEv (o : OSize) (g : Reg) (e : RM) (s : State) : Result := binaryAlu .adc o.width (.reg g) (operandOf e s) s

/-- ADC (R217), AL, Ib: opcode 0x14. -/
def execAdcAlIb (imm : Byte) (s : State) : Result := binaryAlu .adc .w8 (.reg .ax) (.imm (imm.setWidth 32)) s

/-- ADC (R217), eAX, Iv: opcode 0x15. -/
def execAdcEaxIv (o : OSize) (imm : Dword) (s : State) : Result := binaryAlu .adc o.width (.reg .ax) (.imm imm) s

/-- SBB (R219), Eb, Gb: opcode 0x18. -/
def execSbbEbGb (e : RM) (g : Reg) (s : State) : Result := binaryAlu .sbb .w8 (operandOf e s) (.reg g) s

/-- SBB (R219), Ev, Gv: opcode 0x19. -/
def execSbbEvGv (o : OSize) (e : RM) (g : Reg) (s : State) : Result := binaryAlu .sbb o.width (operandOf e s) (.reg g) s

/-- SBB (R219), Gb, Eb: opcode 0x1A. -/
def execSbbGbEb (g : Reg) (e : RM) (s : State) : Result := binaryAlu .sbb .w8 (.reg g) (operandOf e s) s

/-- SBB (R219), Gv, Ev: opcode 0x1B. -/
def execSbbGvEv (o : OSize) (g : Reg) (e : RM) (s : State) : Result := binaryAlu .sbb o.width (.reg g) (operandOf e s) s

/-- SBB (R219), AL, Ib: opcode 0x1C. -/
def execSbbAlIb (imm : Byte) (s : State) : Result := binaryAlu .sbb .w8 (.reg .ax) (.imm (imm.setWidth 32)) s

/-- SBB (R219), eAX, Iv: opcode 0x1D. -/
def execSbbEaxIv (o : OSize) (imm : Dword) (s : State) : Result := binaryAlu .sbb o.width (.reg .ax) (.imm imm) s

/-- AND (R221), Eb, Gb: opcode 0x20. -/
def execAndEbGb (e : RM) (g : Reg) (s : State) : Result := binaryAlu .and .w8 (operandOf e s) (.reg g) s

/-- AND (R221), Ev, Gv: opcode 0x21. -/
def execAndEvGv (o : OSize) (e : RM) (g : Reg) (s : State) : Result := binaryAlu .and o.width (operandOf e s) (.reg g) s

/-- AND (R221), Gb, Eb: opcode 0x22. -/
def execAndGbEb (g : Reg) (e : RM) (s : State) : Result := binaryAlu .and .w8 (.reg g) (operandOf e s) s

/-- AND (R221), Gv, Ev: opcode 0x23. -/
def execAndGvEv (o : OSize) (g : Reg) (e : RM) (s : State) : Result := binaryAlu .and o.width (.reg g) (operandOf e s) s

/-- AND (R221), AL, Ib: opcode 0x24. -/
def execAndAlIb (imm : Byte) (s : State) : Result := binaryAlu .and .w8 (.reg .ax) (.imm (imm.setWidth 32)) s

/-- AND (R221), eAX, Iv: opcode 0x25. -/
def execAndEaxIv (o : OSize) (imm : Dword) (s : State) : Result := binaryAlu .and o.width (.reg .ax) (.imm imm) s

/-- SUB (R218), Eb, Gb: opcode 0x28. -/
def execSubEbGb (e : RM) (g : Reg) (s : State) : Result := binaryAlu .sub .w8 (operandOf e s) (.reg g) s

/-- SUB (R218), Ev, Gv: opcode 0x29. -/
def execSubEvGv (o : OSize) (e : RM) (g : Reg) (s : State) : Result := binaryAlu .sub o.width (operandOf e s) (.reg g) s

/-- SUB (R218), Gb, Eb: opcode 0x2A. -/
def execSubGbEb (g : Reg) (e : RM) (s : State) : Result := binaryAlu .sub .w8 (.reg g) (operandOf e s) s

/-- SUB (R218), Gv, Ev: opcode 0x2B. -/
def execSubGvEv (o : OSize) (g : Reg) (e : RM) (s : State) : Result := binaryAlu .sub o.width (.reg g) (operandOf e s) s

/-- SUB (R218), AL, Ib: opcode 0x2C. -/
def execSubAlIb (imm : Byte) (s : State) : Result := binaryAlu .sub .w8 (.reg .ax) (.imm (imm.setWidth 32)) s

/-- SUB (R218), eAX, Iv: opcode 0x2D. -/
def execSubEaxIv (o : OSize) (imm : Dword) (s : State) : Result := binaryAlu .sub o.width (.reg .ax) (.imm imm) s

/-- XOR (R223), Eb, Gb: opcode 0x30. -/
def execXorEbGb (e : RM) (g : Reg) (s : State) : Result := binaryAlu .xor .w8 (operandOf e s) (.reg g) s

/-- XOR (R223), Ev, Gv: opcode 0x31. -/
def execXorEvGv (o : OSize) (e : RM) (g : Reg) (s : State) : Result := binaryAlu .xor o.width (operandOf e s) (.reg g) s

/-- XOR (R223), Gb, Eb: opcode 0x32. -/
def execXorGbEb (g : Reg) (e : RM) (s : State) : Result := binaryAlu .xor .w8 (.reg g) (operandOf e s) s

/-- XOR (R223), Gv, Ev: opcode 0x33. -/
def execXorGvEv (o : OSize) (g : Reg) (e : RM) (s : State) : Result := binaryAlu .xor o.width (.reg g) (operandOf e s) s

/-- XOR (R223), AL, Ib: opcode 0x34. -/
def execXorAlIb (imm : Byte) (s : State) : Result := binaryAlu .xor .w8 (.reg .ax) (.imm (imm.setWidth 32)) s

/-- XOR (R223), eAX, Iv: opcode 0x35. -/
def execXorEaxIv (o : OSize) (imm : Dword) (s : State) : Result := binaryAlu .xor o.width (.reg .ax) (.imm imm) s

/-- CMP (R220), Eb, Gb: opcode 0x38. -/
def execCmpEbGb (e : RM) (g : Reg) (s : State) : Result := binaryAlu .cmp .w8 (operandOf e s) (.reg g) s

/-- CMP (R220), Ev, Gv: opcode 0x39. -/
def execCmpEvGv (o : OSize) (e : RM) (g : Reg) (s : State) : Result := binaryAlu .cmp o.width (operandOf e s) (.reg g) s

/-- CMP (R220), Gb, Eb: opcode 0x3A. -/
def execCmpGbEb (g : Reg) (e : RM) (s : State) : Result := binaryAlu .cmp .w8 (.reg g) (operandOf e s) s

/-- CMP (R220), Gv, Ev: opcode 0x3B. -/
def execCmpGvEv (o : OSize) (g : Reg) (e : RM) (s : State) : Result := binaryAlu .cmp o.width (.reg g) (operandOf e s) s

/-- CMP (R220), AL, Ib: opcode 0x3C. -/
def execCmpAlIb (imm : Byte) (s : State) : Result := binaryAlu .cmp .w8 (.reg .ax) (.imm (imm.setWidth 32)) s

/-- CMP (R220), eAX, Iv: opcode 0x3D. -/
def execCmpEaxIv (o : OSize) (imm : Dword) (s : State) : Result := binaryAlu .cmp o.width (.reg .ax) (.imm imm) s

/-- ADD (R216), Eb, Ib: 80 /0. -/
def execAddEbIb (e : RM) (imm : Byte) (s : State) : Result :=
  binaryAlu .add .w8 (operandOf e s) (.imm (imm.setWidth 32)) s

/-- ADD (R216), Ev, Iv: 81 /0. -/
def execAddEvIv (o : OSize) (e : RM) (imm : Dword) (s : State) : Result :=
  binaryAlu .add o.width (operandOf e s) (.imm imm) s

/-- ADD (R216), Ev, sIb: 83 /0. -/
def execAddEvSIb (o : OSize) (e : RM) (imm : Byte) (s : State) : Result :=
  binaryAlu .add o.width (operandOf e s) (.imm (imm.signExtend 32)) s

/-- OR (R222), Eb, Ib: 80 /1. -/
def execOrEbIb (e : RM) (imm : Byte) (s : State) : Result :=
  binaryAlu .or .w8 (operandOf e s) (.imm (imm.setWidth 32)) s

/-- OR (R222), Ev, Iv: 81 /1. -/
def execOrEvIv (o : OSize) (e : RM) (imm : Dword) (s : State) : Result :=
  binaryAlu .or o.width (operandOf e s) (.imm imm) s

/-- OR (R222), Ev, sIb: 83 /1. -/
def execOrEvSIb (o : OSize) (e : RM) (imm : Byte) (s : State) : Result :=
  binaryAlu .or o.width (operandOf e s) (.imm (imm.signExtend 32)) s

/-- ADC (R217), Eb, Ib: 80 /2. -/
def execAdcEbIb (e : RM) (imm : Byte) (s : State) : Result :=
  binaryAlu .adc .w8 (operandOf e s) (.imm (imm.setWidth 32)) s

/-- ADC (R217), Ev, Iv: 81 /2. -/
def execAdcEvIv (o : OSize) (e : RM) (imm : Dword) (s : State) : Result :=
  binaryAlu .adc o.width (operandOf e s) (.imm imm) s

/-- ADC (R217), Ev, sIb: 83 /2. -/
def execAdcEvSIb (o : OSize) (e : RM) (imm : Byte) (s : State) : Result :=
  binaryAlu .adc o.width (operandOf e s) (.imm (imm.signExtend 32)) s

/-- SBB (R219), Eb, Ib: 80 /3. -/
def execSbbEbIb (e : RM) (imm : Byte) (s : State) : Result :=
  binaryAlu .sbb .w8 (operandOf e s) (.imm (imm.setWidth 32)) s

/-- SBB (R219), Ev, Iv: 81 /3. -/
def execSbbEvIv (o : OSize) (e : RM) (imm : Dword) (s : State) : Result :=
  binaryAlu .sbb o.width (operandOf e s) (.imm imm) s

/-- SBB (R219), Ev, sIb: 83 /3. -/
def execSbbEvSIb (o : OSize) (e : RM) (imm : Byte) (s : State) : Result :=
  binaryAlu .sbb o.width (operandOf e s) (.imm (imm.signExtend 32)) s

/-- AND (R221), Eb, Ib: 80 /4. -/
def execAndEbIb (e : RM) (imm : Byte) (s : State) : Result :=
  binaryAlu .and .w8 (operandOf e s) (.imm (imm.setWidth 32)) s

/-- AND (R221), Ev, Iv: 81 /4. -/
def execAndEvIv (o : OSize) (e : RM) (imm : Dword) (s : State) : Result :=
  binaryAlu .and o.width (operandOf e s) (.imm imm) s

/-- AND (R221), Ev, sIb: 83 /4. -/
def execAndEvSIb (o : OSize) (e : RM) (imm : Byte) (s : State) : Result :=
  binaryAlu .and o.width (operandOf e s) (.imm (imm.signExtend 32)) s

/-- SUB (R218), Eb, Ib: 80 /5. -/
def execSubEbIb (e : RM) (imm : Byte) (s : State) : Result :=
  binaryAlu .sub .w8 (operandOf e s) (.imm (imm.setWidth 32)) s

/-- SUB (R218), Ev, Iv: 81 /5. -/
def execSubEvIv (o : OSize) (e : RM) (imm : Dword) (s : State) : Result :=
  binaryAlu .sub o.width (operandOf e s) (.imm imm) s

/-- SUB (R218), Ev, sIb: 83 /5. -/
def execSubEvSIb (o : OSize) (e : RM) (imm : Byte) (s : State) : Result :=
  binaryAlu .sub o.width (operandOf e s) (.imm (imm.signExtend 32)) s

/-- XOR (R223), Eb, Ib: 80 /6. -/
def execXorEbIb (e : RM) (imm : Byte) (s : State) : Result :=
  binaryAlu .xor .w8 (operandOf e s) (.imm (imm.setWidth 32)) s

/-- XOR (R223), Ev, Iv: 81 /6. -/
def execXorEvIv (o : OSize) (e : RM) (imm : Dword) (s : State) : Result :=
  binaryAlu .xor o.width (operandOf e s) (.imm imm) s

/-- XOR (R223), Ev, sIb: 83 /6. -/
def execXorEvSIb (o : OSize) (e : RM) (imm : Byte) (s : State) : Result :=
  binaryAlu .xor o.width (operandOf e s) (.imm (imm.signExtend 32)) s

/-- CMP (R220), Eb, Ib: 80 /7. -/
def execCmpEbIb (e : RM) (imm : Byte) (s : State) : Result :=
  binaryAlu .cmp .w8 (operandOf e s) (.imm (imm.setWidth 32)) s

/-- CMP (R220), Ev, Iv: 81 /7. -/
def execCmpEvIv (o : OSize) (e : RM) (imm : Dword) (s : State) : Result :=
  binaryAlu .cmp o.width (operandOf e s) (.imm imm) s

/-- CMP (R220), Ev, sIb: 83 /7. -/
def execCmpEvSIb (o : OSize) (e : RM) (imm : Byte) (s : State) : Result :=
  binaryAlu .cmp o.width (operandOf e s) (.imm (imm.signExtend 32)) s

/-- TEST (R224), Eb, Gb: opcode 0x84. -/
def execTestEbGb (e : RM) (g : Reg) (s : State) : Result := testAlu .w8 (operandOf e s) (.reg g) s

/-- TEST (R224), Ev, Gv: opcode 0x85. -/
def execTestEvGv (o : OSize) (e : RM) (g : Reg) (s : State) : Result := testAlu o.width (operandOf e s) (.reg g) s

/-- TEST (R224), AL, Ib: opcode 0xA8. -/
def execTestAlIb (imm : Byte) (s : State) : Result := testAlu .w8 (.reg .ax) (.imm (imm.setWidth 32)) s

/-- TEST (R224), eAX, Iv: opcode 0xA9. -/
def execTestEaxIv (o : OSize) (imm : Dword) (s : State) : Result := testAlu o.width (.reg .ax) (.imm imm) s

/-- TEST (R224), Eb, Ib: F6 /0. -/
def execTestEbIb (e : RM) (imm : Byte) (s : State) : Result := testAlu .w8 (operandOf e s) (.imm (imm.setWidth 32)) s

/-- TEST (R224), Ev, Iv: F7 /0. -/
def execTestEvIv (o : OSize) (e : RM) (imm : Dword) (s : State) : Result := testAlu o.width (operandOf e s) (.imm imm) s

end Sys2Proof.Machine
end

