-- ==== Sys2Proof/Machine/AluUnary.lean ====
section
/-! DEFINITION. INC, DEC, NEG and NOT (41_alu_unary.md R250-R253). -/

namespace Sys2Proof.Machine

/-- The flags a unary operation writes before its result (for 60_exceptions.md R603). -/
def UnOp.flagPlaces : UnOp → List Place
  | .not => []
  | .inc | .dec | .neg => arithFlags.map .flag

/-- Read the operand, compute, write flags and result (41_alu_unary.md R250-R253). -/
def unaryAlu (op : UnOp) (w : Width) (dst : Operand) (s : State) : Result :=
  orRaise s [] (readOp w dst s) fun a =>
  let out := op.apply s.params a s.flags
  orRaise s op.flagPlaces (writeOp w dst out.1 (s.setFlags out.2)) done

/-- INC (R250), r16/r32: 40+r. -/
def execIncReg (o : OSize) (r : Reg) (s : State) : Result := unaryAlu .inc o.width (.reg r) s

/-- INC (R250), Eb: FE /0. -/
def execIncEb (e : RM) (s : State) : Result := unaryAlu .inc .w8 (operandOf e s) s

/-- INC (R250), Ev: FF /0. -/
def execIncEv (o : OSize) (e : RM) (s : State) : Result := unaryAlu .inc o.width (operandOf e s) s

/-- DEC (R251), r16/r32: 48+r. -/
def execDecReg (o : OSize) (r : Reg) (s : State) : Result := unaryAlu .dec o.width (.reg r) s

/-- DEC (R251), Eb: FE /1. -/
def execDecEb (e : RM) (s : State) : Result := unaryAlu .dec .w8 (operandOf e s) s

/-- DEC (R251), Ev: FF /1. -/
def execDecEv (o : OSize) (e : RM) (s : State) : Result := unaryAlu .dec o.width (operandOf e s) s

/-- NOT (R253), Eb: F6 /2. -/
def execNotEb (e : RM) (s : State) : Result := unaryAlu .not .w8 (operandOf e s) s

/-- NOT (R253), Ev: F7 /2. -/
def execNotEv (o : OSize) (e : RM) (s : State) : Result := unaryAlu .not o.width (operandOf e s) s

/-- NEG (R252), Eb: F6 /3. -/
def execNegEb (e : RM) (s : State) : Result := unaryAlu .neg .w8 (operandOf e s) s

/-- NEG (R252), Ev: F7 /3. -/
def execNegEv (o : OSize) (e : RM) (s : State) : Result := unaryAlu .neg o.width (operandOf e s) s

end Sys2Proof.Machine
end

