-- ==== Sys2Proof/Machine/Control.lean ====
section
/-! DEFINITION. Control transfer, software interrupts and halt (45_control_transfer.md R400-R451). -/

namespace Sys2Proof.Machine

/-- Set IP to a near target (45_control_transfer.md R400). -/
def jumpTo (target : Word) (s : State) : Result := .next (s.setIp target)

/-- A `rel8` jump taken when `c` holds (45_control_transfer.md R400, R402). -/
def jumpIf (c : Bool) (d : Byte) (s : State) : Result :=
  if c then jumpTo (s.ipNext + d.signExtend 16) s else done s

/-- LOOP, LOOPE, LOOPNE: decrement CX, jump if it is not zero and `c` holds (45_control_transfer.md R421-R423). -/
def loopIf (c : Bool) (d : Byte) (s : State) : Result :=
  let cx := readReg .w16 .cx s - 1#16
  jumpIf (cx != 0#16 && c) d (writeReg .w16 .cx cx s)

/-- JMP near indirect (45_control_transfer.md R426). -/
def jumpIndirect (op : Operand) (s : State) : Result :=
  orRaise s [] (readOp .w16 op s) fun t => jumpTo t s

/-- Set CS and IP (45_control_transfer.md R401, R427). -/
def jumpFar (sel off : Word) (s : State) : Result := .next ((s.setIp off).setSreg .cs sel)

/-- JMP far indirect (45_control_transfer.md R428). -/
def jumpFarIndirect (m : MemRef) (s : State) : Result :=
  orRaise s [] (readFarPointer .w16 (memSeg m s.params) (memAddress m s) s) fun (off, sel) => jumpFar sel off s

/-- CALL near: push IP_next, jump (45_control_transfer.md R430). -/
def callNear (target : Word) (s : State) : Result :=
  orRaise s [] (push16 s.ipNext s) fun t => jumpTo target t

/-- CALL near indirect: the target is read before SP changes (45_control_transfer.md R431). -/
def callIndirect (op : Operand) (s : State) : Result :=
  orRaise s [] (readOp .w16 op s) fun t => callNear t s

/-- CALL far: push CS, push IP_next, set CS:IP (45_control_transfer.md R432). -/
def callFarTo (sel off : Word) (s : State) : Result :=
  orRaise s [] (push16 s.sreg.cs s) fun s1 =>
  orRaise s (pushedPlaces s 1) (push16 s.ipNext s1) fun s2 => jumpFar sel off s2

/-- CALL far indirect: the pointer is read before SP changes (45_control_transfer.md R433). -/
def callFarIndirect (m : MemRef) (s : State) : Result :=
  orRaise s [] (readFarPointer .w16 (memSeg m s.params) (memAddress m s) s) fun (off, sel) => callFarTo sel off s

/-- `SP <- (SP + n) mod 0x10000`. -/
def releaseStack (n : Word) (s : State) : State := writeReg .w16 .sp (s.sp + n) s

/-- RET, releasing n bytes (45_control_transfer.md R435, R436). -/
def returnNear (n : Word) (s : State) : Result :=
  orRaise s [] (pop16 s) fun (off, t) => jumpTo off (releaseStack n t)

/-- RETF, releasing n bytes (45_control_transfer.md R437, R438). -/
def returnFar (n : Word) (s : State) : Result :=
  orRaise s [] (pop16 s) fun (off, s1) =>
  orRaise s [.reg .w16 .sp] (pop16 s1) fun (sel, s2) => jumpFar sel off (releaseStack n s2)

/-- INTO (45_control_transfer.md R442). -/
def interruptOnOverflow (s : State) : Result := if s.flags.OF then interrupt 4#8 s else done s

/-- HLT (45_control_transfer.md R451). -/
def halt (s : State) : Result := .next { s.setIp s.ipNext with halted := true }

/-- JO (R403), rel8: opcode 0x70. -/
def execJo (d : Byte) (s : State) : Result := jumpIf (Cond.jo.holds s.flags) d s

/-- JNO (R404), rel8: opcode 0x71. -/
def execJno (d : Byte) (s : State) : Result := jumpIf (Cond.jno.holds s.flags) d s

/-- JC (R405), rel8: opcode 0x72. -/
def execJc (d : Byte) (s : State) : Result := jumpIf (Cond.jc.holds s.flags) d s

/-- JNC (R406), rel8: opcode 0x73. -/
def execJnc (d : Byte) (s : State) : Result := jumpIf (Cond.jnc.holds s.flags) d s

/-- JZ (R407), rel8: opcode 0x74. -/
def execJz (d : Byte) (s : State) : Result := jumpIf (Cond.jz.holds s.flags) d s

/-- JNZ (R408), rel8: opcode 0x75. -/
def execJnz (d : Byte) (s : State) : Result := jumpIf (Cond.jnz.holds s.flags) d s

/-- JBE (R409), rel8: opcode 0x76. -/
def execJbe (d : Byte) (s : State) : Result := jumpIf (Cond.jbe.holds s.flags) d s

/-- JA (R410), rel8: opcode 0x77. -/
def execJa (d : Byte) (s : State) : Result := jumpIf (Cond.ja.holds s.flags) d s

/-- JS (R411), rel8: opcode 0x78. -/
def execJs (d : Byte) (s : State) : Result := jumpIf (Cond.js.holds s.flags) d s

/-- JNS (R412), rel8: opcode 0x79. -/
def execJns (d : Byte) (s : State) : Result := jumpIf (Cond.jns.holds s.flags) d s

/-- JPE (R413), rel8: opcode 0x7A. -/
def execJpe (d : Byte) (s : State) : Result := jumpIf (Cond.jpe.holds s.flags) d s

/-- JPO (R414), rel8: opcode 0x7B. -/
def execJpo (d : Byte) (s : State) : Result := jumpIf (Cond.jpo.holds s.flags) d s

/-- JL (R415), rel8: opcode 0x7C. -/
def execJl (d : Byte) (s : State) : Result := jumpIf (Cond.jl.holds s.flags) d s

/-- JGE (R416), rel8: opcode 0x7D. -/
def execJge (d : Byte) (s : State) : Result := jumpIf (Cond.jge.holds s.flags) d s

/-- JLE (R417), rel8: opcode 0x7E. -/
def execJle (d : Byte) (s : State) : Result := jumpIf (Cond.jle.holds s.flags) d s

/-- JG (R418), rel8: opcode 0x7F. -/
def execJg (d : Byte) (s : State) : Result := jumpIf (Cond.jg.holds s.flags) d s

/-- LOOPNE (R423), rel8: opcode 0xE0. -/
def execLoopne (d : Byte) (s : State) : Result := loopIf (!s.flags.ZF) d s

/-- LOOPE (R422), rel8: opcode 0xE1. -/
def execLoope (d : Byte) (s : State) : Result := loopIf s.flags.ZF d s

/-- LOOP (R421), rel8: opcode 0xE2. -/
def execLoop (d : Byte) (s : State) : Result := loopIf true d s

/-- JCXZ (R420), rel8: opcode 0xE3. -/
def execJcxz (d : Byte) (s : State) : Result := jumpIf (readReg .w16 .cx s == 0#16) d s

/-- JMP (R425), rel16: opcode 0xE9. -/
def execJmpRel16 (d : Word) (s : State) : Result := jumpTo (s.ipNext + d) s

/-- JMP (R425), rel8: opcode 0xEB. -/
def execJmpRel8 (d : Byte) (s : State) : Result := jumpTo (s.ipNext + d.signExtend 16) s

/-- JMP (R426), Ev: FF /4. -/
def execJmpEv (e : RM) (s : State) : Result := jumpIndirect (operandOf e s) s

/-- JMP (R427), ptr16:16: opcode 0xEA. -/
def execJmpFar (sel off : Word) (s : State) : Result := jumpFar sel off s

/-- JMP (R428), Mp: FF /5. -/
def execJmpMp (m : MemRef) (s : State) : Result := jumpFarIndirect m s

/-- CALL (R430), rel16: opcode 0xE8. -/
def execCallRel16 (d : Word) (s : State) : Result := callNear (s.ipNext + d) s

/-- CALL (R431), Ev: FF /2. -/
def execCallEv (e : RM) (s : State) : Result := callIndirect (operandOf e s) s

/-- CALL (R432), ptr16:16: opcode 0x9A. -/
def execCallFar (sel off : Word) (s : State) : Result := callFarTo sel off s

/-- CALL (R433), Mp: FF /3. -/
def execCallMp (m : MemRef) (s : State) : Result := callFarIndirect m s

/-- RET (R435), opcode 0xC3. -/
def execRet (s : State) : Result := returnNear 0#16 s

/-- RET (R436), Iw: opcode 0xC2. -/
def execRetIw (n : Word) (s : State) : Result := returnNear n s

/-- RETF (R437), opcode 0xCB. -/
def execRetf (s : State) : Result := returnFar 0#16 s

/-- RETF (R438), Iw: opcode 0xCA. -/
def execRetfIw (n : Word) (s : State) : Result := returnFar n s

/-- INT (R440), Ib: opcode 0xCD. -/
def execIntIb (n : Byte) (s : State) : Result := interrupt n s

/-- INT3 (R441), opcode 0xCC. -/
def execInt3 (s : State) : Result := interrupt 3#8 s

/-- INTO (R442), opcode 0xCE. -/
def execInto (s : State) : Result := interruptOnOverflow s

/-- IRET (R443), opcode 0xCF. -/
def execIret (s : State) : Result := interruptReturn s

/-- HLT (R451), opcode 0xF4. -/
def execHlt (s : State) : Result := halt s

end Sys2Proof.Machine
end

