-- ==== Sys2Proof/Machine/FlagOps.lean ====
section
/-! DEFINITION. Flag instructions (44_flag_ops.md R370-R384). -/

namespace Sys2Proof.Machine

/-- LAHF: AH takes the low byte of the image under `AHF_MASK` (44_flag_ops.md R381). -/
def loadAhFromFlags (s : State) : Result :=
  done (writeReg .w8 .sp (s.flags.image.extractLsb' 0 8 &&& s.params.ahfMask) s)

/-- SAHF (44_flag_ops.md R382). -/
def storeAhIntoFlags (s : State) : Result :=
  done (s.setFlags (s.flags.overlay s.params.ahfMask (readReg .w8 .sp s)))

/-- POPF: all nine flags (44_flag_ops.md R384). -/
def popFlags (s : State) : Result :=
  orRaise s [] (pop16 s) fun (v, t) => done (t.setFlags (Flags.ofImage v))

/-- CLC (R370), opcode 0xF8. -/
def execClc (s : State) : Result := done (s.setFlags { s.flags with CF := false })

/-- STC (R371), opcode 0xF9. -/
def execStc (s : State) : Result := done (s.setFlags { s.flags with CF := true })

/-- CMC (R372), opcode 0xF5. -/
def execCmc (s : State) : Result := done (s.setFlags { s.flags with CF := !s.flags.CF })

/-- CLD (R373), opcode 0xFC. -/
def execCld (s : State) : Result := done (s.setFlags { s.flags with DF := false })

/-- STD (R374), opcode 0xFD. -/
def execStd (s : State) : Result := done (s.setFlags { s.flags with DF := true })

/-- CLI (R375), opcode 0xFA. -/
def execCli (s : State) : Result := done (s.setFlags { s.flags with IF := false })

/-- STI (R376), opcode 0xFB. -/
def execSti (s : State) : Result := done (s.setFlags { s.flags with IF := true })

/-- LAHF (R381), opcode 0x9F. -/
def execLahf (s : State) : Result := loadAhFromFlags s

/-- SAHF (R382), opcode 0x9E. -/
def execSahf (s : State) : Result := storeAhIntoFlags s

/-- PUSHF (R383), opcode 0x9C. -/
def execPushf (s : State) : Result := pushValue s.flags.image s

/-- POPF (R384), opcode 0x9D. -/
def execPopf (s : State) : Result := popFlags s

end Sys2Proof.Machine
end

