-- ==== Sys2Proof/Machine/MulDiv.lean ====
section
/-! DEFINITION. Multiply, divide and accumulator sign extension (42_muldiv.md R300-R305). -/

namespace Sys2Proof.Machine

/-- The register of the high half of a double-width value: AH, DX or EDX (42_muldiv.md R300, R302). -/
def accHigh : Width → Reg
  | .w8 => .sp
  | .w16 | .w32 => .dx

/-- Write the high and low halves: AH:AL (which is AX), DX:AX or EDX:EAX. -/
def writeAcc (w : Width) (hi lo : BitVec w.bits) (s : State) : State :=
  writeReg w (accHigh w) hi (writeReg w .ax lo s)

/-- MUL (42_muldiv.md R300). -/
def mulOp (w : Width) (src : Operand) (s : State) : Result :=
  orRaise s [] (readOp w src s) fun a =>
  let p := (readReg w .ax s).toNat * a.toNat
  let hi := BitVec.ofNat w.bits (p / 2 ^ w.bits)
  let c := hi != 0#w.bits
  done ((writeAcc w hi (BitVec.ofNat w.bits p) s).setFlags { s.flags with CF := c, OF := c })

/-- IMUL, one operand (42_muldiv.md R301). -/
def imulOp (w : Width) (src : Operand) (s : State) : Result :=
  orRaise s [] (readOp w src s) fun a =>
  let p := (readReg w .ax s).toInt * a.toInt
  let c := signedOverflow w.bits p
  done ((writeAcc w (BitVec.ofInt w.bits (p / 2 ^ w.bits)) (BitVec.ofInt w.bits p) s).setFlags
    { s.flags with CF := c, OF := c })

/-- The dividend: AX, DX:AX or EDX:EAX, of 2w bits (42_muldiv.md R302). -/
def dividend (w : Width) (s : State) : BitVec (w.bits + w.bits) := readReg w (accHigh w) s ++ readReg w .ax s

/-- DIV: a DivideError comes before any write (42_muldiv.md R302). -/
def divOp (w : Width) (src : Operand) (s : State) : Result :=
  orRaise s [] (readOp w src s) fun d =>
  let n := (dividend w s).toNat
  let q := n / d.toNat
  if d.toNat = 0 then raise .divideError [] s
  else if 2 ^ w.bits - 1 < q then raise .divideError [] s
  else done (writeAcc w (BitVec.ofNat w.bits (n % d.toNat)) (BitVec.ofNat w.bits q) s)

/-- IDIV: truncation toward zero, the remainder has the dividend's sign (42_muldiv.md R303). -/
def idivOp (w : Width) (src : Operand) (s : State) : Result :=
  orRaise s [] (readOp w src s) fun d =>
  let n := (dividend w s).toInt
  let q := Int.tdiv n d.toInt
  if d.toInt = 0 then raise .divideError [] s
  else if signedOverflow w.bits q then raise .divideError [] s
  else done (writeAcc w (BitVec.ofInt w.bits (n - q * d.toInt)) (BitVec.ofInt w.bits q) s)

/-- CBW, CWDE (42_muldiv.md R304). -/
def signExtendAcc (o : OSize) (s : State) : Result :=
  match o with
  | .o16 => done (writeReg .w16 .ax ((readReg .w8 .ax s).signExtend 16) s)
  | .o32 => done (writeReg .w32 .ax ((readReg .w16 .ax s).signExtend 32) s)

/-- CWD, CDQ (42_muldiv.md R305). -/
def signFillHigh (o : OSize) (s : State) : Result :=
  match o with
  | .o16 => done (writeReg .w16 .dx (if (readReg .w16 .ax s).msb then 0xFFFF#16 else 0#16) s)
  | .o32 => done (writeReg .w32 .dx (if (readReg .w32 .ax s).msb then 0xFFFFFFFF#32 else 0#32) s)

/-- MUL (R300), Eb: F6 /4. -/
def execMulEb (e : RM) (s : State) : Result := mulOp .w8 (operandOf e s) s

/-- MUL (R300), Ev: F7 /4. -/
def execMulEv (o : OSize) (e : RM) (s : State) : Result := mulOp o.width (operandOf e s) s

/-- IMUL (R301), Eb: F6 /5. -/
def execImulEb (e : RM) (s : State) : Result := imulOp .w8 (operandOf e s) s

/-- IMUL (R301), Ev: F7 /5. -/
def execImulEv (o : OSize) (e : RM) (s : State) : Result := imulOp o.width (operandOf e s) s

/-- DIV (R302), Eb: F6 /6. -/
def execDivEb (e : RM) (s : State) : Result := divOp .w8 (operandOf e s) s

/-- DIV (R302), Ev: F7 /6. -/
def execDivEv (o : OSize) (e : RM) (s : State) : Result := divOp o.width (operandOf e s) s

/-- IDIV (R303), Eb: F6 /7. -/
def execIdivEb (e : RM) (s : State) : Result := idivOp .w8 (operandOf e s) s

/-- IDIV (R303), Ev: F7 /7. -/
def execIdivEv (o : OSize) (e : RM) (s : State) : Result := idivOp o.width (operandOf e s) s

/-- CBW (R304), opcode 0x98. -/
def execCbw (s : State) : Result := signExtendAcc .o16 s

/-- CWDE (R304), 66 98. -/
def execCwde (s : State) : Result := signExtendAcc .o32 s

/-- CWD (R305), opcode 0x99. -/
def execCwd (s : State) : Result := signFillHigh .o16 s

/-- CDQ (R305), 66 99. -/
def execCdq (s : State) : Result := signFillHigh .o32 s

end Sys2Proof.Machine
end

