-- ==== Sys2Proof/Machine/Prefix.lean ====
section
/-! DEFINITION. The prefix bytes as units of the instruction they precede (30_encoding.md R111-R115, log entry 10). -/

namespace Sys2Proof.Machine

/-- ES: (R113), byte 0x26. -/
def execSegEs (s : State) : Result := collectPrefix (.seg .es) s

/-- CS: (R113), byte 0x2E. -/
def execSegCs (s : State) : Result := collectPrefix (.seg .cs) s

/-- SS: (R113), byte 0x36. -/
def execSegSs (s : State) : Result := collectPrefix (.seg .ss) s

/-- DS: (R113), byte 0x3E. -/
def execSegDs (s : State) : Result := collectPrefix (.seg .ds) s

/-- FS: (R113), byte 0x64. -/
def execSegFs (s : State) : Result := collectPrefix (.seg .fs) s

/-- GS: (R113), byte 0x65. -/
def execSegGs (s : State) : Result := collectPrefix (.seg .gs) s

/-- OPSIZE (R114), byte 0x66. -/
def execOpSize (s : State) : Result := collectPrefix .opSize s

/-- REP_REPE (R115), byte 0xF3. -/
def execRepE (s : State) : Result := collectPrefix .repZ s

/-- REPNE (R115), byte 0xF2. -/
def execRepNe (s : State) : Result := collectPrefix .repNZ s

end Sys2Proof.Machine
end

