-- ==== Sys2Proof/Machine/Shift.lean ====
section
/-! DEFINITION. Shifts and rotates (43_shift_rotate.md R330-R337). -/

namespace Sys2Proof.Machine

/-- The masked count `c = src & 0x1F` (43_shift_rotate.md R330). -/
def shiftCount (src : Byte) : Nat := src.toNat % 32

/-- OF after a shift or rotate by `c`: the rule's OF' for c = 1, else the next free value (43_shift_rotate.md R330, log
entry 12). -/
def shiftOverflow (c : Nat) (of : Bool) (s : State) : Bool := if c = 1 then of else Config.freeFlag s.draws

/-- Write result, CF, OF and, for a shift, SF, ZF, PF (43_shift_rotate.md R330). -/
def shiftWrite (op : ShiftOp) (w : Width) (dst : Operand) (c : Nat) (r : BitVec w.bits) (cf of : Bool) (s : State) :
    Result :=
  let f := { s.flags with CF := cf, OF := shiftOverflow c of s }
  let f := if op.isShift then f.szp r else f
  let s := if c = 1 then s else s.draw
  orRaise s [] (writeOp w dst r s) fun t => done (t.setFlags f)

/-- The common execution of 43_shift_rotate.md R330; the operand is read even when c = 0. -/
def shiftOp (op : ShiftOp) (w : Width) (dst : Operand) (src : Byte) (s : State) : Result :=
  orRaise s [] (readOp w dst s) fun a =>
  let c := shiftCount src
  if c = 0 then done s
  else
    match op.apply s.params.rclMultiBit a c s.flags.CF with
    | .unchanged => done s
    | .value r cf of => shiftWrite op w dst c r cf of s
    | .anyValue =>
      shiftWrite op w dst c ((Config.freeBits s.draws).setWidth w.bits) (Config.freeFlag s.draws) false s.draw

/-- ROL (R334), Eb, Ib: C0 /0. -/
def execRolEbIb (e : RM) (imm : Byte) (s : State) : Result := shiftOp .rol .w8 (operandOf e s) imm s

/-- ROL (R334), Ev, Ib: C1 /0. -/
def execRolEvIb (o : OSize) (e : RM) (imm : Byte) (s : State) : Result := shiftOp .rol o.width (operandOf e s) imm s

/-- ROL (R334), Eb, 1: D0 /0. -/
def execRolEb1 (e : RM) (s : State) : Result := shiftOp .rol .w8 (operandOf e s) 1#8 s

/-- ROL (R334), Ev, 1: D1 /0. -/
def execRolEv1 (o : OSize) (e : RM) (s : State) : Result := shiftOp .rol o.width (operandOf e s) 1#8 s

/-- ROL (R334), Eb, Cl: D2 /0. -/
def execRolEbCl (e : RM) (s : State) : Result := shiftOp .rol .w8 (operandOf e s) (readReg .w8 .cx s) s

/-- ROL (R334), Ev, Cl: D3 /0. -/
def execRolEvCl (o : OSize) (e : RM) (s : State) : Result := shiftOp .rol o.width (operandOf e s) (readReg .w8 .cx s) s

/-- ROR (R335), Eb, Ib: C0 /1. -/
def execRorEbIb (e : RM) (imm : Byte) (s : State) : Result := shiftOp .ror .w8 (operandOf e s) imm s

/-- ROR (R335), Ev, Ib: C1 /1. -/
def execRorEvIb (o : OSize) (e : RM) (imm : Byte) (s : State) : Result := shiftOp .ror o.width (operandOf e s) imm s

/-- ROR (R335), Eb, 1: D0 /1. -/
def execRorEb1 (e : RM) (s : State) : Result := shiftOp .ror .w8 (operandOf e s) 1#8 s

/-- ROR (R335), Ev, 1: D1 /1. -/
def execRorEv1 (o : OSize) (e : RM) (s : State) : Result := shiftOp .ror o.width (operandOf e s) 1#8 s

/-- ROR (R335), Eb, Cl: D2 /1. -/
def execRorEbCl (e : RM) (s : State) : Result := shiftOp .ror .w8 (operandOf e s) (readReg .w8 .cx s) s

/-- ROR (R335), Ev, Cl: D3 /1. -/
def execRorEvCl (o : OSize) (e : RM) (s : State) : Result := shiftOp .ror o.width (operandOf e s) (readReg .w8 .cx s) s

/-- RCL (R336), Eb, Ib: C0 /2. -/
def execRclEbIb (e : RM) (imm : Byte) (s : State) : Result := shiftOp .rcl .w8 (operandOf e s) imm s

/-- RCL (R336), Ev, Ib: C1 /2. -/
def execRclEvIb (o : OSize) (e : RM) (imm : Byte) (s : State) : Result := shiftOp .rcl o.width (operandOf e s) imm s

/-- RCL (R336), Eb, 1: D0 /2. -/
def execRclEb1 (e : RM) (s : State) : Result := shiftOp .rcl .w8 (operandOf e s) 1#8 s

/-- RCL (R336), Ev, 1: D1 /2. -/
def execRclEv1 (o : OSize) (e : RM) (s : State) : Result := shiftOp .rcl o.width (operandOf e s) 1#8 s

/-- RCL (R336), Eb, Cl: D2 /2. -/
def execRclEbCl (e : RM) (s : State) : Result := shiftOp .rcl .w8 (operandOf e s) (readReg .w8 .cx s) s

/-- RCL (R336), Ev, Cl: D3 /2. -/
def execRclEvCl (o : OSize) (e : RM) (s : State) : Result := shiftOp .rcl o.width (operandOf e s) (readReg .w8 .cx s) s

/-- RCR (R337), Eb, Ib: C0 /3. -/
def execRcrEbIb (e : RM) (imm : Byte) (s : State) : Result := shiftOp .rcr .w8 (operandOf e s) imm s

/-- RCR (R337), Ev, Ib: C1 /3. -/
def execRcrEvIb (o : OSize) (e : RM) (imm : Byte) (s : State) : Result := shiftOp .rcr o.width (operandOf e s) imm s

/-- RCR (R337), Eb, 1: D0 /3. -/
def execRcrEb1 (e : RM) (s : State) : Result := shiftOp .rcr .w8 (operandOf e s) 1#8 s

/-- RCR (R337), Ev, 1: D1 /3. -/
def execRcrEv1 (o : OSize) (e : RM) (s : State) : Result := shiftOp .rcr o.width (operandOf e s) 1#8 s

/-- RCR (R337), Eb, Cl: D2 /3. -/
def execRcrEbCl (e : RM) (s : State) : Result := shiftOp .rcr .w8 (operandOf e s) (readReg .w8 .cx s) s

/-- RCR (R337), Ev, Cl: D3 /3. -/
def execRcrEvCl (o : OSize) (e : RM) (s : State) : Result := shiftOp .rcr o.width (operandOf e s) (readReg .w8 .cx s) s

/-- SHL (R331), Eb, Ib: C0 /4. -/
def execShlEbIb (e : RM) (imm : Byte) (s : State) : Result := shiftOp .shl .w8 (operandOf e s) imm s

/-- SHL (R331), Ev, Ib: C1 /4. -/
def execShlEvIb (o : OSize) (e : RM) (imm : Byte) (s : State) : Result := shiftOp .shl o.width (operandOf e s) imm s

/-- SHL (R331), Eb, 1: D0 /4. -/
def execShlEb1 (e : RM) (s : State) : Result := shiftOp .shl .w8 (operandOf e s) 1#8 s

/-- SHL (R331), Ev, 1: D1 /4. -/
def execShlEv1 (o : OSize) (e : RM) (s : State) : Result := shiftOp .shl o.width (operandOf e s) 1#8 s

/-- SHL (R331), Eb, Cl: D2 /4. -/
def execShlEbCl (e : RM) (s : State) : Result := shiftOp .shl .w8 (operandOf e s) (readReg .w8 .cx s) s

/-- SHL (R331), Ev, Cl: D3 /4. -/
def execShlEvCl (o : OSize) (e : RM) (s : State) : Result := shiftOp .shl o.width (operandOf e s) (readReg .w8 .cx s) s

/-- SHR (R332), Eb, Ib: C0 /5. -/
def execShrEbIb (e : RM) (imm : Byte) (s : State) : Result := shiftOp .shr .w8 (operandOf e s) imm s

/-- SHR (R332), Ev, Ib: C1 /5. -/
def execShrEvIb (o : OSize) (e : RM) (imm : Byte) (s : State) : Result := shiftOp .shr o.width (operandOf e s) imm s

/-- SHR (R332), Eb, 1: D0 /5. -/
def execShrEb1 (e : RM) (s : State) : Result := shiftOp .shr .w8 (operandOf e s) 1#8 s

/-- SHR (R332), Ev, 1: D1 /5. -/
def execShrEv1 (o : OSize) (e : RM) (s : State) : Result := shiftOp .shr o.width (operandOf e s) 1#8 s

/-- SHR (R332), Eb, Cl: D2 /5. -/
def execShrEbCl (e : RM) (s : State) : Result := shiftOp .shr .w8 (operandOf e s) (readReg .w8 .cx s) s

/-- SHR (R332), Ev, Cl: D3 /5. -/
def execShrEvCl (o : OSize) (e : RM) (s : State) : Result := shiftOp .shr o.width (operandOf e s) (readReg .w8 .cx s) s

/-- SAR (R333), Eb, Ib: C0 /7. -/
def execSarEbIb (e : RM) (imm : Byte) (s : State) : Result := shiftOp .sar .w8 (operandOf e s) imm s

/-- SAR (R333), Ev, Ib: C1 /7. -/
def execSarEvIb (o : OSize) (e : RM) (imm : Byte) (s : State) : Result := shiftOp .sar o.width (operandOf e s) imm s

/-- SAR (R333), Eb, 1: D0 /7. -/
def execSarEb1 (e : RM) (s : State) : Result := shiftOp .sar .w8 (operandOf e s) 1#8 s

/-- SAR (R333), Ev, 1: D1 /7. -/
def execSarEv1 (o : OSize) (e : RM) (s : State) : Result := shiftOp .sar o.width (operandOf e s) 1#8 s

/-- SAR (R333), Eb, Cl: D2 /7. -/
def execSarEbCl (e : RM) (s : State) : Result := shiftOp .sar .w8 (operandOf e s) (readReg .w8 .cx s) s

/-- SAR (R333), Ev, Cl: D3 /7. -/
def execSarEvCl (o : OSize) (e : RM) (s : State) : Result := shiftOp .sar o.width (operandOf e s) (readReg .w8 .cx s) s

end Sys2Proof.Machine
end

