-- ==== Sys2Proof/Machine/Strings.lean ====
section
/-! DEFINITION. String instructions and their repetition (46_string.md R460-R471). -/

namespace Sys2Proof.Machine

/-- The string operations. -/
inductive StrOp where
  | movs | cmps | stos | lods | scas
deriving DecidableEq, Repr

/-- The repetitions of 46_string.md R471. -/
inductive Repeat where
  | rep | repz | repnz
deriving DecidableEq, Repr

/-- The step Δ: +n if DF = 0, -n if DF = 1 (46_string.md R460). -/
def stringDelta (w : Width) (f : Flags) : Word := if f.DF then -(BitVec.ofNat 16 w.bytes) else BitVec.ofNat 16 w.bytes

/-- `r <- (r + Δ) mod 0x10000` for SI or DI (46_string.md R460). -/
def advance (w : Width) (r : Reg) (s : State) : State :=
  writeReg .w16 r (readReg .w16 r s + stringDelta w s.flags) s

/-- The address of the source element: (SEGOVR or DS, SI) (46_string.md R460). -/
def stringSource (ovr : Option SReg) (s : State) : Nat := s.addr (ovr.getD .ds) (readReg .w16 .si s)

/-- The address of the destination element: (ES, DI), never overridden (46_string.md R460). -/
def stringDest (s : State) : Nat := s.addr .es (readReg .w16 .di s)

/-- One iteration (46_string.md R461-R465). -/
def stringIteration (op : StrOp) (w : Width) (ovr : Option SReg) (s : State) : Except FaultInfo State :=
  match op with
  | .movs =>
    match memRead w (stringSource ovr s) s with
    | .error c => .error c
    | .ok v =>
      match memWrite w (stringDest s) v s with
      | .error c => .error c
      | .ok t => .ok (advance w .di (advance w .si t))
  | .cmps =>
    match memRead w (stringSource ovr s) s with
    | .error c => .error c
    | .ok a =>
      match memRead w (stringDest s) s with
      | .error c => .error c
      | .ok b => .ok (advance w .di (advance w .si (s.setFlags (compareFlags a b s.flags))))
  | .scas =>
    match memRead w (stringDest s) s with
    | .error c => .error c
    | .ok b => .ok (advance w .di (s.setFlags (compareFlags (readReg w .ax s) b s.flags)))
  | .stos =>
    match memWrite w (stringDest s) (readReg w .ax s) s with
    | .error c => .error c
    | .ok t => .ok (advance w .di t)
  | .lods =>
    match memRead w (stringSource ovr s) s with
    | .error c => .error c
    | .ok v => .ok (advance w .si (writeReg w .ax v s))

/-- A string instruction without a repetition prefix: one iteration (46_string.md R470). -/
def stringOnce (op : StrOp) (w : Width) (ovr : Option SReg) (s : State) : Result :=
  orRaise s [] (stringIteration op w ovr s) done

/-- CX. -/
def State.cx (s : State) : Word := readReg .w16 .cx s

/-- The test that ends a repetition early, after the CX decrement (46_string.md R470). -/
def repeatStops (kind : Repeat) (f : Flags) : Bool :=
  match kind with
  | .rep => false
  | .repz => !f.ZF
  | .repnz => f.ZF

/-- The loop of 46_string.md R470 for a count of CX iterations; a fault carries the state before its iteration. -/
def repeatLoop (op : StrOp) (w : Width) (ovr : Option SReg) (kind : Repeat) :
    Nat → State → Except (FaultInfo × State) State
  | 0, s => .ok s
  | n + 1, s =>
    match stringIteration op w ovr s with
    | .error c => .error (c, s)
    | .ok t =>
      let u := writeReg .w16 .cx (t.cx - 1#16) t
      if repeatStops kind u.flags then .ok u else repeatLoop op w ovr kind n u

/-- The registers and flags one completed iteration writes. -/
def iterationPlaces (op : StrOp) (w : Width) : List Place :=
  match op with
  | .movs => [.reg .w16 .si, .reg .w16 .di]
  | .cmps => [.reg .w16 .si, .reg .w16 .di] ++ arithFlags.map .flag
  | .scas => .reg .w16 .di :: arithFlags.map .flag
  | .stos => [.reg .w16 .di]
  | .lods => [.reg .w16 .si, .reg w .ax]

/-- The addresses the first `j` iterations from `s` store to (MOVS, STOS). -/
def iterationStores (op : StrOp) (w : Width) (j : Nat) (s : State) : List Nat :=
  match op with
  | .movs | .stos =>
    (List.range j).flatMap fun i =>
      byteRange (s.addr .es (readReg .w16 .di s + BitVec.ofNat 16 i * stringDelta w s.flags)) w.bytes
  | .cmps | .scas | .lods => []

/-- What `j` completed iterations from `s` write: any value after a fault in the next one (46_string.md R470,
60_exceptions.md R603, log entry 18). -/
def repeatPlaces (op : StrOp) (w : Width) (j : Nat) (s : State) : List Place :=
  if j = 0 then []
  else .reg .w16 .cx :: iterationPlaces op w ++ (iterationStores op w j s).map .byte

/-- A string instruction under a repetition prefix: the whole loop is one step (46_string.md R470). -/
def stringRepeat (op : StrOp) (w : Width) (ovr : Option SReg) (kind : Repeat) (s : State) : Result :=
  match repeatLoop op w ovr kind s.cx.toNat s with
  | .ok t => done t
  | .error (c, t) => raise c (repeatPlaces op w (s.cx - t.cx).toNat s) s

/-- MOVSB (R461), opcode 0xA4. -/
def execMovsb (ovr : Option SReg) (s : State) : Result := stringOnce .movs .w8 ovr s

/-- REP_MOVSB (R470), F3 A4. -/
def execRepMovsb (ovr : Option SReg) (s : State) : Result := stringRepeat .movs .w8 ovr .rep s

/-- MOVSW (R461), opcode 0xA5. -/
def execMovsw (ovr : Option SReg) (s : State) : Result := stringOnce .movs .w16 ovr s

/-- REP_MOVSW (R470), F3 A5. -/
def execRepMovsw (ovr : Option SReg) (s : State) : Result := stringRepeat .movs .w16 ovr .rep s

/-- MOVSD (R461), opcode 0xA5, 0x66. -/
def execMovsd (ovr : Option SReg) (s : State) : Result := stringOnce .movs .w32 ovr s

/-- REP_MOVSD (R470), F3 A5, 0x66. -/
def execRepMovsd (ovr : Option SReg) (s : State) : Result := stringRepeat .movs .w32 ovr .rep s

/-- CMPSB (R462), opcode 0xA6. -/
def execCmpsb (ovr : Option SReg) (s : State) : Result := stringOnce .cmps .w8 ovr s

/-- REPE_CMPSB (R470), F3 A6. -/
def execRepeCmpsb (ovr : Option SReg) (s : State) : Result := stringRepeat .cmps .w8 ovr .repz s

/-- REPNE_CMPSB (R470), F2 A6. -/
def execRepneCmpsb (ovr : Option SReg) (s : State) : Result := stringRepeat .cmps .w8 ovr .repnz s

/-- CMPSW (R462), opcode 0xA7. -/
def execCmpsw (ovr : Option SReg) (s : State) : Result := stringOnce .cmps .w16 ovr s

/-- REPE_CMPSW (R470), F3 A7. -/
def execRepeCmpsw (ovr : Option SReg) (s : State) : Result := stringRepeat .cmps .w16 ovr .repz s

/-- REPNE_CMPSW (R470), F2 A7. -/
def execRepneCmpsw (ovr : Option SReg) (s : State) : Result := stringRepeat .cmps .w16 ovr .repnz s

/-- CMPSD (R462), opcode 0xA7, 0x66. -/
def execCmpsd (ovr : Option SReg) (s : State) : Result := stringOnce .cmps .w32 ovr s

/-- REPE_CMPSD (R470), F3 A7, 0x66. -/
def execRepeCmpsd (ovr : Option SReg) (s : State) : Result := stringRepeat .cmps .w32 ovr .repz s

/-- REPNE_CMPSD (R470), F2 A7, 0x66. -/
def execRepneCmpsd (ovr : Option SReg) (s : State) : Result := stringRepeat .cmps .w32 ovr .repnz s

/-- STOSB (R464), opcode 0xAA. -/
def execStosb (s : State) : Result := stringOnce .stos .w8 none s

/-- REP_STOSB (R470), F3 AA. -/
def execRepStosb (s : State) : Result := stringRepeat .stos .w8 none .rep s

/-- STOSW (R464), opcode 0xAB. -/
def execStosw (s : State) : Result := stringOnce .stos .w16 none s

/-- REP_STOSW (R470), F3 AB. -/
def execRepStosw (s : State) : Result := stringRepeat .stos .w16 none .rep s

/-- STOSD (R464), opcode 0xAB, 0x66. -/
def execStosd (s : State) : Result := stringOnce .stos .w32 none s

/-- REP_STOSD (R470), F3 AB, 0x66. -/
def execRepStosd (s : State) : Result := stringRepeat .stos .w32 none .rep s

/-- LODSB (R465), opcode 0xAC. -/
def execLodsb (ovr : Option SReg) (s : State) : Result := stringOnce .lods .w8 ovr s

/-- REP_LODSB (R470), F3 AC. -/
def execRepLodsb (ovr : Option SReg) (s : State) : Result := stringRepeat .lods .w8 ovr .rep s

/-- LODSW (R465), opcode 0xAD. -/
def execLodsw (ovr : Option SReg) (s : State) : Result := stringOnce .lods .w16 ovr s

/-- REP_LODSW (R470), F3 AD. -/
def execRepLodsw (ovr : Option SReg) (s : State) : Result := stringRepeat .lods .w16 ovr .rep s

/-- LODSD (R465), opcode 0xAD, 0x66. -/
def execLodsd (ovr : Option SReg) (s : State) : Result := stringOnce .lods .w32 ovr s

/-- REP_LODSD (R470), F3 AD, 0x66. -/
def execRepLodsd (ovr : Option SReg) (s : State) : Result := stringRepeat .lods .w32 ovr .rep s

/-- SCASB (R463), opcode 0xAE. -/
def execScasb (s : State) : Result := stringOnce .scas .w8 none s

/-- REPE_SCASB (R470), F3 AE. -/
def execRepeScasb (s : State) : Result := stringRepeat .scas .w8 none .repz s

/-- REPNE_SCASB (R470), F2 AE. -/
def execRepneScasb (s : State) : Result := stringRepeat .scas .w8 none .repnz s

/-- SCASW (R463), opcode 0xAF. -/
def execScasw (s : State) : Result := stringOnce .scas .w16 none s

/-- REPE_SCASW (R470), F3 AF. -/
def execRepeScasw (s : State) : Result := stringRepeat .scas .w16 none .repz s

/-- REPNE_SCASW (R470), F2 AF. -/
def execRepneScasw (s : State) : Result := stringRepeat .scas .w16 none .repnz s

/-- SCASD (R463), opcode 0xAF, 0x66. -/
def execScasd (s : State) : Result := stringOnce .scas .w32 none s

/-- REPE_SCASD (R470), F3 AF, 0x66. -/
def execRepeScasd (s : State) : Result := stringRepeat .scas .w32 none .repz s

/-- REPNE_SCASD (R470), F2 AF, 0x66. -/
def execRepneScasd (s : State) : Result := stringRepeat .scas .w32 none .repnz s

end Sys2Proof.Machine
end

