-- ==== Sys2Proof/Machine/Transfer.lean ====
section
/-! DEFINITION. Moves, exchange, address loads, XLAT, PUSH and POP (47_data_transfer.md R490-R526). -/

namespace Sys2Proof.Machine

/-- MOV: `Write(dst, Read(src))` (47_data_transfer.md R490-R494). -/
def moveOp (w : Width) (dst src : Operand) (s : State) : Result :=
  orRaise s [] (readOp w src s) fun v => orRaise s [] (writeOp w dst v s) done

/-- XCHG; the second operand is a register (47_data_transfer.md R495). -/
def exchangeOp (w : Width) (op1 op2 : Operand) (s : State) : Result :=
  orRaise s [] (readOp w op1 s) fun a =>
  orRaise s [] (readOp w op2 s) fun b =>
  orRaise s [] (writeOp w op1 b s) fun t => orRaise s [] (writeOp w op2 a t) done

/-- NOP, at either operand size (47_data_transfer.md R496). -/
def noOperation (_o : OSize) (s : State) : Result := done s

/-- LEA: the 16-bit effective address, zero-extended at width 32; no memory access (47_data_transfer.md R497). -/
def loadEffectiveAddress (o : OSize) (g : Reg) (m : MemRef) (s : State) : Result :=
  done (writeReg o.width g ((memAddress m s).setWidth o.width.bits) s)

/-- LES, LDS, LSS, LFS, LGS with segment register `x`: both reads precede both writes (47_data_transfer.md R505). -/
def loadFarPointer (x : SReg) (o : OSize) (g : Reg) (m : MemRef) (s : State) : Result :=
  orRaise s [] (readFarPointer o.width (memSeg m s.params) (memAddress m s) s) fun (off, sel) =>
  done ((writeReg o.width g off s).setSreg x sel)

/-- XLAT: `AL <- MemRead(phys(S, (BX + AL) mod 0x10000), 1)` (47_data_transfer.md R510). -/
def translateByte (ovr : Option SReg) (s : State) : Result :=
  orRaise s [] (memRead .w8 (s.addr (ovr.getD .ds) (readReg .w16 .bx s + (readReg .w8 .ax s).setWidth 16)) s) fun v =>
  done (writeReg .w8 .ax v s)

/-- PUSH r/m16: the operand is read before SP changes (47_data_transfer.md R523). -/
def pushOperand (op : Operand) (s : State) : Result :=
  orRaise s [] (readOp .w16 op s) fun v => pushValue v s

/-- POP into an operand (47_data_transfer.md R524-R526): SP changes before the operand is written. -/
def popOperand (op : Operand) (s : State) : Result :=
  orRaise s [] (pop16 s) fun (v, t) => orRaise s [.reg .w16 .sp] (writeOp .w16 op v t) done

/-- MOV (R490), Eb, Gb: opcode 0x88. -/
def execMovEbGb (e : RM) (g : Reg) (s : State) : Result := moveOp .w8 (operandOf e s) (.reg g) s

/-- MOV (R490), Ev, Gv: opcode 0x89. -/
def execMovEvGv (o : OSize) (e : RM) (g : Reg) (s : State) : Result := moveOp o.width (operandOf e s) (.reg g) s

/-- MOV (R490), Gb, Eb: opcode 0x8A. -/
def execMovGbEb (g : Reg) (e : RM) (s : State) : Result := moveOp .w8 (.reg g) (operandOf e s) s

/-- MOV (R490), Gv, Ev: opcode 0x8B. -/
def execMovGvEv (o : OSize) (g : Reg) (e : RM) (s : State) : Result := moveOp o.width (.reg g) (operandOf e s) s

/-- MOV (R491), r8, Ib: B0+r. -/
def execMovRegIb (r : Reg) (imm : Byte) (s : State) : Result := moveOp .w8 (.reg r) (.imm (imm.setWidth 32)) s

/-- MOV (R491), r16/r32, Iv: B8+r. -/
def execMovRegIv (o : OSize) (r : Reg) (imm : Dword) (s : State) : Result := moveOp o.width (.reg r) (.imm imm) s

/-- MOV (R492), Eb, Ib: C6 /0. -/
def execMovEbIb (e : RM) (imm : Byte) (s : State) : Result := moveOp .w8 (operandOf e s) (.imm (imm.setWidth 32)) s

/-- MOV (R492), Ev, Iv: C7 /0. -/
def execMovEvIv (o : OSize) (e : RM) (imm : Dword) (s : State) : Result := moveOp o.width (operandOf e s) (.imm imm) s

/-- MOV (R493), AL, moffs: opcode 0xA0. -/
def execMovAlMoffs (ovr : Option SReg) (off : Word) (s : State) : Result :=
  moveOp .w8 (.reg .ax) (moffsOperand ovr off) s

/-- MOV (R493), eAX, moffs: opcode 0xA1. -/
def execMovEaxMoffs (o : OSize) (ovr : Option SReg) (off : Word) (s : State) : Result :=
  moveOp o.width (.reg .ax) (moffsOperand ovr off) s

/-- MOV (R493), moffs, AL: opcode 0xA2. -/
def execMovMoffsAl (ovr : Option SReg) (off : Word) (s : State) : Result :=
  moveOp .w8 (moffsOperand ovr off) (.reg .ax) s

/-- MOV (R493), moffs, eAX: opcode 0xA3. -/
def execMovMoffsEax (o : OSize) (ovr : Option SReg) (off : Word) (s : State) : Result :=
  moveOp o.width (moffsOperand ovr off) (.reg .ax) s

/-- MOV (R494), Ew, Sw: opcode 0x8C. -/
def execMovEwSw (e : RM) (r : SReg) (s : State) : Result := moveOp .w16 (operandOf e s) (.seg r) s

/-- MOV (R494), Sw, Ew: opcode 0x8E. -/
def execMovSwEw (r : SReg) (e : RM) (s : State) : Result := moveOp .w16 (.seg r) (operandOf e s) s

/-- XCHG (R495), Eb, Gb: opcode 0x86. -/
def execXchgEbGb (e : RM) (g : Reg) (s : State) : Result := exchangeOp .w8 (operandOf e s) (.reg g) s

/-- XCHG (R495), Ev, Gv: opcode 0x87. -/
def execXchgEvGv (o : OSize) (e : RM) (g : Reg) (s : State) : Result := exchangeOp o.width (operandOf e s) (.reg g) s

/-- XCHG (R495), eAX, r: opcode 0x91. -/
def execXchgEaxCx (o : OSize) (s : State) : Result := exchangeOp o.width (.reg .ax) (.reg .cx) s

/-- XCHG (R495), eAX, r: opcode 0x92. -/
def execXchgEaxDx (o : OSize) (s : State) : Result := exchangeOp o.width (.reg .ax) (.reg .dx) s

/-- XCHG (R495), eAX, r: opcode 0x93. -/
def execXchgEaxBx (o : OSize) (s : State) : Result := exchangeOp o.width (.reg .ax) (.reg .bx) s

/-- XCHG (R495), eAX, r: opcode 0x94. -/
def execXchgEaxSp (o : OSize) (s : State) : Result := exchangeOp o.width (.reg .ax) (.reg .sp) s

/-- XCHG (R495), eAX, r: opcode 0x95. -/
def execXchgEaxBp (o : OSize) (s : State) : Result := exchangeOp o.width (.reg .ax) (.reg .bp) s

/-- XCHG (R495), eAX, r: opcode 0x96. -/
def execXchgEaxSi (o : OSize) (s : State) : Result := exchangeOp o.width (.reg .ax) (.reg .si) s

/-- XCHG (R495), eAX, r: opcode 0x97. -/
def execXchgEaxDi (o : OSize) (s : State) : Result := exchangeOp o.width (.reg .ax) (.reg .di) s

/-- NOP (R496), opcode 0x90. -/
def execNop (o : OSize) (s : State) : Result := noOperation o s

/-- LEA (R497), Gv, M: opcode 0x8D. -/
def execLeaGvM (o : OSize) (g : Reg) (m : MemRef) (s : State) : Result := loadEffectiveAddress o g m s

/-- LES (R500), Gv, Mp: C4 /r. -/
def execLesGvMp (o : OSize) (g : Reg) (m : MemRef) (s : State) : Result := loadFarPointer .es o g m s

/-- LDS (R501), Gv, Mp: C5 /r. -/
def execLdsGvMp (o : OSize) (g : Reg) (m : MemRef) (s : State) : Result := loadFarPointer .ds o g m s

/-- LSS (R502), Gv, Mp: 0F B2 /r. -/
def execLssGvMp (o : OSize) (g : Reg) (m : MemRef) (s : State) : Result := loadFarPointer .ss o g m s

/-- LFS (R503), Gv, Mp: 0F B4 /r. -/
def execLfsGvMp (o : OSize) (g : Reg) (m : MemRef) (s : State) : Result := loadFarPointer .fs o g m s

/-- LGS (R504), Gv, Mp: 0F B5 /r. -/
def execLgsGvMp (o : OSize) (g : Reg) (m : MemRef) (s : State) : Result := loadFarPointer .gs o g m s

/-- XLAT (R510), opcode 0xD7. -/
def execXlat (ovr : Option SReg) (s : State) : Result := translateByte ovr s

/-- PUSH (R521), r16: 50+r. -/
def execPushReg (r : Reg) (s : State) : Result := pushValue (readReg .w16 r s) s

/-- PUSH_ES (R522), opcode 0x06. -/
def execPushEs (s : State) : Result := pushValue (s.sreg.get .es) s

/-- PUSH_CS (R522), opcode 0x0E. -/
def execPushCs (s : State) : Result := pushValue (s.sreg.get .cs) s

/-- PUSH_SS (R522), opcode 0x16. -/
def execPushSs (s : State) : Result := pushValue (s.sreg.get .ss) s

/-- PUSH_DS (R522), opcode 0x1E. -/
def execPushDs (s : State) : Result := pushValue (s.sreg.get .ds) s

/-- PUSH (R523), Ev: FF /6. -/
def execPushEv (e : RM) (s : State) : Result := pushOperand (operandOf e s) s

/-- POP (R524), r16: 58+r. -/
def execPopReg (r : Reg) (s : State) : Result := popOperand (.reg r) s

/-- POP_ES (R525), opcode 0x07. -/
def execPopEs (s : State) : Result := popOperand (.seg .es) s

/-- POP_SS (R525), opcode 0x17. -/
def execPopSs (s : State) : Result := popOperand (.seg .ss) s

/-- POP_DS (R525), opcode 0x1F. -/
def execPopDs (s : State) : Result := popOperand (.seg .ds) s

/-- POP (R526), Ev: 8F /0. -/
def execPopEv (e : RM) (s : State) : Result := popOperand (operandOf e s) s

end Sys2Proof.Machine
end

