-- ==== Sys2Proof/Machine/Dispatch.lean ====
section
/-! DEFINITION. One arm per constructor of Instr: which meaning an instruction has (30_encoding.md R132). -/

namespace Sys2Proof.Machine

def exec (i : Instr) (s : State) : Host.Outcome State Fault Refusal :=
  match i with
  | .addEbGb e g => Sys2Proof.Machine.execAddEbGb e g s
  | .addEvGv o e g => Sys2Proof.Machine.execAddEvGv o e g s
  | .addGbEb g e => Sys2Proof.Machine.execAddGbEb g e s
  | .addGvEv o g e => Sys2Proof.Machine.execAddGvEv o g e s
  | .addAlIb imm => Sys2Proof.Machine.execAddAlIb imm s
  | .addEaxIv o imm => Sys2Proof.Machine.execAddEaxIv o imm s
  | .orEbGb e g => Sys2Proof.Machine.execOrEbGb e g s
  | .orEvGv o e g => Sys2Proof.Machine.execOrEvGv o e g s
  | .orGbEb g e => Sys2Proof.Machine.execOrGbEb g e s
  | .orGvEv o g e => Sys2Proof.Machine.execOrGvEv o g e s
  | .orAlIb imm => Sys2Proof.Machine.execOrAlIb imm s
  | .orEaxIv o imm => Sys2Proof.Machine.execOrEaxIv o imm s
  | .adcEbGb e g => Sys2Proof.Machine.execAdcEbGb e g s
  | .adcEvGv o e g => Sys2Proof.Machine.execAdcEvGv o e g s
  | .adcGbEb g e => Sys2Proof.Machine.execAdcGbEb g e s
  | .adcGvEv o g e => Sys2Proof.Machine.execAdcGvEv o g e s
  | .adcAlIb imm => Sys2Proof.Machine.execAdcAlIb imm s
  | .adcEaxIv o imm => Sys2Proof.Machine.execAdcEaxIv o imm s
  | .sbbEbGb e g => Sys2Proof.Machine.execSbbEbGb e g s
  | .sbbEvGv o e g => Sys2Proof.Machine.execSbbEvGv o e g s
  | .sbbGbEb g e => Sys2Proof.Machine.execSbbGbEb g e s
  | .sbbGvEv o g e => Sys2Proof.Machine.execSbbGvEv o g e s
  | .sbbAlIb imm => Sys2Proof.Machine.execSbbAlIb imm s
  | .sbbEaxIv o imm => Sys2Proof.Machine.execSbbEaxIv o imm s
  | .andEbGb e g => Sys2Proof.Machine.execAndEbGb e g s
  | .andEvGv o e g => Sys2Proof.Machine.execAndEvGv o e g s
  | .andGbEb g e => Sys2Proof.Machine.execAndGbEb g e s
  | .andGvEv o g e => Sys2Proof.Machine.execAndGvEv o g e s
  | .andAlIb imm => Sys2Proof.Machine.execAndAlIb imm s
  | .andEaxIv o imm => Sys2Proof.Machine.execAndEaxIv o imm s
  | .subEbGb e g => Sys2Proof.Machine.execSubEbGb e g s
  | .subEvGv o e g => Sys2Proof.Machine.execSubEvGv o e g s
  | .subGbEb g e => Sys2Proof.Machine.execSubGbEb g e s
  | .subGvEv o g e => Sys2Proof.Machine.execSubGvEv o g e s
  | .subAlIb imm => Sys2Proof.Machine.execSubAlIb imm s
  | .subEaxIv o imm => Sys2Proof.Machine.execSubEaxIv o imm s
  | .xorEbGb e g => Sys2Proof.Machine.execXorEbGb e g s
  | .xorEvGv o e g => Sys2Proof.Machine.execXorEvGv o e g s
  | .xorGbEb g e => Sys2Proof.Machine.execXorGbEb g e s
  | .xorGvEv o g e => Sys2Proof.Machine.execXorGvEv o g e s
  | .xorAlIb imm => Sys2Proof.Machine.execXorAlIb imm s
  | .xorEaxIv o imm => Sys2Proof.Machine.execXorEaxIv o imm s
  | .cmpEbGb e g => Sys2Proof.Machine.execCmpEbGb e g s
  | .cmpEvGv o e g => Sys2Proof.Machine.execCmpEvGv o e g s
  | .cmpGbEb g e => Sys2Proof.Machine.execCmpGbEb g e s
  | .cmpGvEv o g e => Sys2Proof.Machine.execCmpGvEv o g e s
  | .cmpAlIb imm => Sys2Proof.Machine.execCmpAlIb imm s
  | .cmpEaxIv o imm => Sys2Proof.Machine.execCmpEaxIv o imm s
  | .addEbIb e imm => Sys2Proof.Machine.execAddEbIb e imm s
  | .addEvIv o e imm => Sys2Proof.Machine.execAddEvIv o e imm s
  | .addEvSIb o e imm => Sys2Proof.Machine.execAddEvSIb o e imm s
  | .orEbIb e imm => Sys2Proof.Machine.execOrEbIb e imm s
  | .orEvIv o e imm => Sys2Proof.Machine.execOrEvIv o e imm s
  | .orEvSIb o e imm => Sys2Proof.Machine.execOrEvSIb o e imm s
  | .adcEbIb e imm => Sys2Proof.Machine.execAdcEbIb e imm s
  | .adcEvIv o e imm => Sys2Proof.Machine.execAdcEvIv o e imm s
  | .adcEvSIb o e imm => Sys2Proof.Machine.execAdcEvSIb o e imm s
  | .sbbEbIb e imm => Sys2Proof.Machine.execSbbEbIb e imm s
  | .sbbEvIv o e imm => Sys2Proof.Machine.execSbbEvIv o e imm s
  | .sbbEvSIb o e imm => Sys2Proof.Machine.execSbbEvSIb o e imm s
  | .andEbIb e imm => Sys2Proof.Machine.execAndEbIb e imm s
  | .andEvIv o e imm => Sys2Proof.Machine.execAndEvIv o e imm s
  | .andEvSIb o e imm => Sys2Proof.Machine.execAndEvSIb o e imm s
  | .subEbIb e imm => Sys2Proof.Machine.execSubEbIb e imm s
  | .subEvIv o e imm => Sys2Proof.Machine.execSubEvIv o e imm s
  | .subEvSIb o e imm => Sys2Proof.Machine.execSubEvSIb o e imm s
  | .xorEbIb e imm => Sys2Proof.Machine.execXorEbIb e imm s
  | .xorEvIv o e imm => Sys2Proof.Machine.execXorEvIv o e imm s
  | .xorEvSIb o e imm => Sys2Proof.Machine.execXorEvSIb o e imm s
  | .cmpEbIb e imm => Sys2Proof.Machine.execCmpEbIb e imm s
  | .cmpEvIv o e imm => Sys2Proof.Machine.execCmpEvIv o e imm s
  | .cmpEvSIb o e imm => Sys2Proof.Machine.execCmpEvSIb o e imm s
  | .testEbGb e g => Sys2Proof.Machine.execTestEbGb e g s
  | .testEvGv o e g => Sys2Proof.Machine.execTestEvGv o e g s
  | .testAlIb imm => Sys2Proof.Machine.execTestAlIb imm s
  | .testEaxIv o imm => Sys2Proof.Machine.execTestEaxIv o imm s
  | .testEbIb e imm => Sys2Proof.Machine.execTestEbIb e imm s
  | .testEvIv o e imm => Sys2Proof.Machine.execTestEvIv o e imm s
  | .incReg o r => Sys2Proof.Machine.execIncReg o r s
  | .incEb e => Sys2Proof.Machine.execIncEb e s
  | .incEv o e => Sys2Proof.Machine.execIncEv o e s
  | .decReg o r => Sys2Proof.Machine.execDecReg o r s
  | .decEb e => Sys2Proof.Machine.execDecEb e s
  | .decEv o e => Sys2Proof.Machine.execDecEv o e s
  | .notEb e => Sys2Proof.Machine.execNotEb e s
  | .notEv o e => Sys2Proof.Machine.execNotEv o e s
  | .negEb e => Sys2Proof.Machine.execNegEb e s
  | .negEv o e => Sys2Proof.Machine.execNegEv o e s
  | .mulEb e => Sys2Proof.Machine.execMulEb e s
  | .mulEv o e => Sys2Proof.Machine.execMulEv o e s
  | .imulEb e => Sys2Proof.Machine.execImulEb e s
  | .imulEv o e => Sys2Proof.Machine.execImulEv o e s
  | .divEb e => Sys2Proof.Machine.execDivEb e s
  | .divEv o e => Sys2Proof.Machine.execDivEv o e s
  | .idivEb e => Sys2Proof.Machine.execIdivEb e s
  | .idivEv o e => Sys2Proof.Machine.execIdivEv o e s
  | .cbw => Sys2Proof.Machine.execCbw s
  | .cwde => Sys2Proof.Machine.execCwde s
  | .cwd => Sys2Proof.Machine.execCwd s
  | .cdq => Sys2Proof.Machine.execCdq s
  | .rolEbIb e imm => Sys2Proof.Machine.execRolEbIb e imm s
  | .rolEvIb o e imm => Sys2Proof.Machine.execRolEvIb o e imm s
  | .rolEb1 e => Sys2Proof.Machine.execRolEb1 e s
  | .rolEv1 o e => Sys2Proof.Machine.execRolEv1 o e s
  | .rolEbCl e => Sys2Proof.Machine.execRolEbCl e s
  | .rolEvCl o e => Sys2Proof.Machine.execRolEvCl o e s
  | .rorEbIb e imm => Sys2Proof.Machine.execRorEbIb e imm s
  | .rorEvIb o e imm => Sys2Proof.Machine.execRorEvIb o e imm s
  | .rorEb1 e => Sys2Proof.Machine.execRorEb1 e s
  | .rorEv1 o e => Sys2Proof.Machine.execRorEv1 o e s
  | .rorEbCl e => Sys2Proof.Machine.execRorEbCl e s
  | .rorEvCl o e => Sys2Proof.Machine.execRorEvCl o e s
  | .rclEbIb e imm => Sys2Proof.Machine.execRclEbIb e imm s
  | .rclEvIb o e imm => Sys2Proof.Machine.execRclEvIb o e imm s
  | .rclEb1 e => Sys2Proof.Machine.execRclEb1 e s
  | .rclEv1 o e => Sys2Proof.Machine.execRclEv1 o e s
  | .rclEbCl e => Sys2Proof.Machine.execRclEbCl e s
  | .rclEvCl o e => Sys2Proof.Machine.execRclEvCl o e s
  | .rcrEbIb e imm => Sys2Proof.Machine.execRcrEbIb e imm s
  | .rcrEvIb o e imm => Sys2Proof.Machine.execRcrEvIb o e imm s
  | .rcrEb1 e => Sys2Proof.Machine.execRcrEb1 e s
  | .rcrEv1 o e => Sys2Proof.Machine.execRcrEv1 o e s
  | .rcrEbCl e => Sys2Proof.Machine.execRcrEbCl e s
  | .rcrEvCl o e => Sys2Proof.Machine.execRcrEvCl o e s
  | .shlEbIb e imm => Sys2Proof.Machine.execShlEbIb e imm s
  | .shlEvIb o e imm => Sys2Proof.Machine.execShlEvIb o e imm s
  | .shlEb1 e => Sys2Proof.Machine.execShlEb1 e s
  | .shlEv1 o e => Sys2Proof.Machine.execShlEv1 o e s
  | .shlEbCl e => Sys2Proof.Machine.execShlEbCl e s
  | .shlEvCl o e => Sys2Proof.Machine.execShlEvCl o e s
  | .shrEbIb e imm => Sys2Proof.Machine.execShrEbIb e imm s
  | .shrEvIb o e imm => Sys2Proof.Machine.execShrEvIb o e imm s
  | .shrEb1 e => Sys2Proof.Machine.execShrEb1 e s
  | .shrEv1 o e => Sys2Proof.Machine.execShrEv1 o e s
  | .shrEbCl e => Sys2Proof.Machine.execShrEbCl e s
  | .shrEvCl o e => Sys2Proof.Machine.execShrEvCl o e s
  | .sarEbIb e imm => Sys2Proof.Machine.execSarEbIb e imm s
  | .sarEvIb o e imm => Sys2Proof.Machine.execSarEvIb o e imm s
  | .sarEb1 e => Sys2Proof.Machine.execSarEb1 e s
  | .sarEv1 o e => Sys2Proof.Machine.execSarEv1 o e s
  | .sarEbCl e => Sys2Proof.Machine.execSarEbCl e s
  | .sarEvCl o e => Sys2Proof.Machine.execSarEvCl o e s
  | .clc => Sys2Proof.Machine.execClc s
  | .stc => Sys2Proof.Machine.execStc s
  | .cmc => Sys2Proof.Machine.execCmc s
  | .cld => Sys2Proof.Machine.execCld s
  | .std => Sys2Proof.Machine.execStd s
  | .cli => Sys2Proof.Machine.execCli s
  | .sti => Sys2Proof.Machine.execSti s
  | .lahf => Sys2Proof.Machine.execLahf s
  | .sahf => Sys2Proof.Machine.execSahf s
  | .pushf => Sys2Proof.Machine.execPushf s
  | .popf => Sys2Proof.Machine.execPopf s
  | .jo d => Sys2Proof.Machine.execJo d s
  | .jno d => Sys2Proof.Machine.execJno d s
  | .jc d => Sys2Proof.Machine.execJc d s
  | .jnc d => Sys2Proof.Machine.execJnc d s
  | .jz d => Sys2Proof.Machine.execJz d s
  | .jnz d => Sys2Proof.Machine.execJnz d s
  | .jbe d => Sys2Proof.Machine.execJbe d s
  | .ja d => Sys2Proof.Machine.execJa d s
  | .js d => Sys2Proof.Machine.execJs d s
  | .jns d => Sys2Proof.Machine.execJns d s
  | .jpe d => Sys2Proof.Machine.execJpe d s
  | .jpo d => Sys2Proof.Machine.execJpo d s
  | .jl d => Sys2Proof.Machine.execJl d s
  | .jge d => Sys2Proof.Machine.execJge d s
  | .jle d => Sys2Proof.Machine.execJle d s
  | .jg d => Sys2Proof.Machine.execJg d s
  | .loopne d => Sys2Proof.Machine.execLoopne d s
  | .loope d => Sys2Proof.Machine.execLoope d s
  | .loop d => Sys2Proof.Machine.execLoop d s
  | .jcxz d => Sys2Proof.Machine.execJcxz d s
  | .jmpRel16 d => Sys2Proof.Machine.execJmpRel16 d s
  | .jmpRel8 d => Sys2Proof.Machine.execJmpRel8 d s
  | .jmpEv e => Sys2Proof.Machine.execJmpEv e s
  | .jmpFar sel off => Sys2Proof.Machine.execJmpFar sel off s
  | .jmpMp m => Sys2Proof.Machine.execJmpMp m s
  | .callRel16 d => Sys2Proof.Machine.execCallRel16 d s
  | .callEv e => Sys2Proof.Machine.execCallEv e s
  | .callFar sel off => Sys2Proof.Machine.execCallFar sel off s
  | .callMp m => Sys2Proof.Machine.execCallMp m s
  | .ret => Sys2Proof.Machine.execRet s
  | .retIw n => Sys2Proof.Machine.execRetIw n s
  | .retf => Sys2Proof.Machine.execRetf s
  | .retfIw n => Sys2Proof.Machine.execRetfIw n s
  | .intIb n => Sys2Proof.Machine.execIntIb n s
  | .int3 => Sys2Proof.Machine.execInt3 s
  | .into => Sys2Proof.Machine.execInto s
  | .iret => Sys2Proof.Machine.execIret s
  | .hlt => Sys2Proof.Machine.execHlt s
  | .movsb ovr => Sys2Proof.Machine.execMovsb ovr s
  | .repMovsb ovr => Sys2Proof.Machine.execRepMovsb ovr s
  | .movsw ovr => Sys2Proof.Machine.execMovsw ovr s
  | .repMovsw ovr => Sys2Proof.Machine.execRepMovsw ovr s
  | .movsd ovr => Sys2Proof.Machine.execMovsd ovr s
  | .repMovsd ovr => Sys2Proof.Machine.execRepMovsd ovr s
  | .cmpsb ovr => Sys2Proof.Machine.execCmpsb ovr s
  | .repeCmpsb ovr => Sys2Proof.Machine.execRepeCmpsb ovr s
  | .repneCmpsb ovr => Sys2Proof.Machine.execRepneCmpsb ovr s
  | .cmpsw ovr => Sys2Proof.Machine.execCmpsw ovr s
  | .repeCmpsw ovr => Sys2Proof.Machine.execRepeCmpsw ovr s
  | .repneCmpsw ovr => Sys2Proof.Machine.execRepneCmpsw ovr s
  | .cmpsd ovr => Sys2Proof.Machine.execCmpsd ovr s
  | .repeCmpsd ovr => Sys2Proof.Machine.execRepeCmpsd ovr s
  | .repneCmpsd ovr => Sys2Proof.Machine.execRepneCmpsd ovr s
  | .stosb => Sys2Proof.Machine.execStosb s
  | .repStosb => Sys2Proof.Machine.execRepStosb s
  | .stosw => Sys2Proof.Machine.execStosw s
  | .repStosw => Sys2Proof.Machine.execRepStosw s
  | .stosd => Sys2Proof.Machine.execStosd s
  | .repStosd => Sys2Proof.Machine.execRepStosd s
  | .lodsb ovr => Sys2Proof.Machine.execLodsb ovr s
  | .repLodsb ovr => Sys2Proof.Machine.execRepLodsb ovr s
  | .lodsw ovr => Sys2Proof.Machine.execLodsw ovr s
  | .repLodsw ovr => Sys2Proof.Machine.execRepLodsw ovr s
  | .lodsd ovr => Sys2Proof.Machine.execLodsd ovr s
  | .repLodsd ovr => Sys2Proof.Machine.execRepLodsd ovr s
  | .scasb => Sys2Proof.Machine.execScasb s
  | .repeScasb => Sys2Proof.Machine.execRepeScasb s
  | .repneScasb => Sys2Proof.Machine.execRepneScasb s
  | .scasw => Sys2Proof.Machine.execScasw s
  | .repeScasw => Sys2Proof.Machine.execRepeScasw s
  | .repneScasw => Sys2Proof.Machine.execRepneScasw s
  | .scasd => Sys2Proof.Machine.execScasd s
  | .repeScasd => Sys2Proof.Machine.execRepeScasd s
  | .repneScasd => Sys2Proof.Machine.execRepneScasd s
  | .movEbGb e g => Sys2Proof.Machine.execMovEbGb e g s
  | .movEvGv o e g => Sys2Proof.Machine.execMovEvGv o e g s
  | .movGbEb g e => Sys2Proof.Machine.execMovGbEb g e s
  | .movGvEv o g e => Sys2Proof.Machine.execMovGvEv o g e s
  | .movRegIb r imm => Sys2Proof.Machine.execMovRegIb r imm s
  | .movRegIv o r imm => Sys2Proof.Machine.execMovRegIv o r imm s
  | .movEbIb e imm => Sys2Proof.Machine.execMovEbIb e imm s
  | .movEvIv o e imm => Sys2Proof.Machine.execMovEvIv o e imm s
  | .movAlMoffs ovr off => Sys2Proof.Machine.execMovAlMoffs ovr off s
  | .movEaxMoffs o ovr off => Sys2Proof.Machine.execMovEaxMoffs o ovr off s
  | .movMoffsAl ovr off => Sys2Proof.Machine.execMovMoffsAl ovr off s
  | .movMoffsEax o ovr off => Sys2Proof.Machine.execMovMoffsEax o ovr off s
  | .movEwSw e r => Sys2Proof.Machine.execMovEwSw e r s
  | .movSwEw r e => Sys2Proof.Machine.execMovSwEw r e s
  | .xchgEbGb e g => Sys2Proof.Machine.execXchgEbGb e g s
  | .xchgEvGv o e g => Sys2Proof.Machine.execXchgEvGv o e g s
  | .xchgEaxCx o => Sys2Proof.Machine.execXchgEaxCx o s
  | .xchgEaxDx o => Sys2Proof.Machine.execXchgEaxDx o s
  | .xchgEaxBx o => Sys2Proof.Machine.execXchgEaxBx o s
  | .xchgEaxSp o => Sys2Proof.Machine.execXchgEaxSp o s
  | .xchgEaxBp o => Sys2Proof.Machine.execXchgEaxBp o s
  | .xchgEaxSi o => Sys2Proof.Machine.execXchgEaxSi o s
  | .xchgEaxDi o => Sys2Proof.Machine.execXchgEaxDi o s
  | .nop o => Sys2Proof.Machine.execNop o s
  | .leaGvM o g m => Sys2Proof.Machine.execLeaGvM o g m s
  | .lesGvMp o g m => Sys2Proof.Machine.execLesGvMp o g m s
  | .ldsGvMp o g m => Sys2Proof.Machine.execLdsGvMp o g m s
  | .lssGvMp o g m => Sys2Proof.Machine.execLssGvMp o g m s
  | .lfsGvMp o g m => Sys2Proof.Machine.execLfsGvMp o g m s
  | .lgsGvMp o g m => Sys2Proof.Machine.execLgsGvMp o g m s
  | .xlat ovr => Sys2Proof.Machine.execXlat ovr s
  | .pushReg r => Sys2Proof.Machine.execPushReg r s
  | .pushEs => Sys2Proof.Machine.execPushEs s
  | .pushCs => Sys2Proof.Machine.execPushCs s
  | .pushSs => Sys2Proof.Machine.execPushSs s
  | .pushDs => Sys2Proof.Machine.execPushDs s
  | .pushEv e => Sys2Proof.Machine.execPushEv e s
  | .popReg r => Sys2Proof.Machine.execPopReg r s
  | .popEs => Sys2Proof.Machine.execPopEs s
  | .popSs => Sys2Proof.Machine.execPopSs s
  | .popDs => Sys2Proof.Machine.execPopDs s
  | .popEv e => Sys2Proof.Machine.execPopEv e s
  | .segEs => Sys2Proof.Machine.execSegEs s
  | .segCs => Sys2Proof.Machine.execSegCs s
  | .segSs => Sys2Proof.Machine.execSegSs s
  | .segDs => Sys2Proof.Machine.execSegDs s
  | .segFs => Sys2Proof.Machine.execSegFs s
  | .segGs => Sys2Proof.Machine.execSegGs s
  | .opSize => Sys2Proof.Machine.execOpSize s
  | .repE => Sys2Proof.Machine.execRepE s
  | .repNe => Sys2Proof.Machine.execRepNe s

end Sys2Proof.Machine
end

