-- ==== Sys2Proof/WellFormed.lean ====
section
/-! DEFINITION. Well-formed instructions: the operands the encoding admits (30_encoding.md R122, R126, R171). -/

namespace Sys2Proof

/-- `mod = 00, rm = 110` is the plain displacement, so BP alone is no form (30_encoding.md R122). -/
def MemForm.wf : MemForm → Bool
  | .base b => b != .bp
  | .direct _ => true
  | .disp8 _ _ => true
  | .disp16 _ _ => true

/-- A memory operand is well formed when its form is. -/
def MemRef.wf (m : MemRef) : Bool := m.form.wf

/-- An `E` operand is well formed when its memory form is. -/
def RM.wf : RM → Bool
  | .reg _ => true
  | .mem m => m.wf

/-- An `Iv` immediate has the operand size: its upper half is 0 when `OSZ` is 16 (30_encoding.md R126). -/
def immFits : OSize → Dword → Bool
  | .o16, imm => imm.extractLsb' 16 16 == 0#16
  | .o32, _ => true

/-- The operand checks of each row. MOV to CS is malformed (30_encoding.md R171). -/
def Instr.wf : Instr → Bool
  | .addEbGb e _ => e.wf
  | .addEvGv _ e _ => e.wf
  | .addGbEb _ e => e.wf
  | .addGvEv _ _ e => e.wf
  | .addEaxIv o imm => immFits o imm
  | .orEbGb e _ => e.wf
  | .orEvGv _ e _ => e.wf
  | .orGbEb _ e => e.wf
  | .orGvEv _ _ e => e.wf
  | .orEaxIv o imm => immFits o imm
  | .adcEbGb e _ => e.wf
  | .adcEvGv _ e _ => e.wf
  | .adcGbEb _ e => e.wf
  | .adcGvEv _ _ e => e.wf
  | .adcEaxIv o imm => immFits o imm
  | .sbbEbGb e _ => e.wf
  | .sbbEvGv _ e _ => e.wf
  | .sbbGbEb _ e => e.wf
  | .sbbGvEv _ _ e => e.wf
  | .sbbEaxIv o imm => immFits o imm
  | .andEbGb e _ => e.wf
  | .andEvGv _ e _ => e.wf
  | .andGbEb _ e => e.wf
  | .andGvEv _ _ e => e.wf
  | .andEaxIv o imm => immFits o imm
  | .subEbGb e _ => e.wf
  | .subEvGv _ e _ => e.wf
  | .subGbEb _ e => e.wf
  | .subGvEv _ _ e => e.wf
  | .subEaxIv o imm => immFits o imm
  | .xorEbGb e _ => e.wf
  | .xorEvGv _ e _ => e.wf
  | .xorGbEb _ e => e.wf
  | .xorGvEv _ _ e => e.wf
  | .xorEaxIv o imm => immFits o imm
  | .cmpEbGb e _ => e.wf
  | .cmpEvGv _ e _ => e.wf
  | .cmpGbEb _ e => e.wf
  | .cmpGvEv _ _ e => e.wf
  | .cmpEaxIv o imm => immFits o imm
  | .addEbIb e _ => e.wf
  | .addEvIv o e imm => e.wf && immFits o imm
  | .addEvSIb _ e _ => e.wf
  | .orEbIb e _ => e.wf
  | .orEvIv o e imm => e.wf && immFits o imm
  | .orEvSIb _ e _ => e.wf
  | .adcEbIb e _ => e.wf
  | .adcEvIv o e imm => e.wf && immFits o imm
  | .adcEvSIb _ e _ => e.wf
  | .sbbEbIb e _ => e.wf
  | .sbbEvIv o e imm => e.wf && immFits o imm
  | .sbbEvSIb _ e _ => e.wf
  | .andEbIb e _ => e.wf
  | .andEvIv o e imm => e.wf && immFits o imm
  | .andEvSIb _ e _ => e.wf
  | .subEbIb e _ => e.wf
  | .subEvIv o e imm => e.wf && immFits o imm
  | .subEvSIb _ e _ => e.wf
  | .xorEbIb e _ => e.wf
  | .xorEvIv o e imm => e.wf && immFits o imm
  | .xorEvSIb _ e _ => e.wf
  | .cmpEbIb e _ => e.wf
  | .cmpEvIv o e imm => e.wf && immFits o imm
  | .cmpEvSIb _ e _ => e.wf
  | .testEbGb e _ => e.wf
  | .testEvGv _ e _ => e.wf
  | .testEaxIv o imm => immFits o imm
  | .testEbIb e _ => e.wf
  | .testEvIv o e imm => e.wf && immFits o imm
  | .incEb e => e.wf
  | .incEv _ e => e.wf
  | .decEb e => e.wf
  | .decEv _ e => e.wf
  | .notEb e => e.wf
  | .notEv _ e => e.wf
  | .negEb e => e.wf
  | .negEv _ e => e.wf
  | .mulEb e => e.wf
  | .mulEv _ e => e.wf
  | .imulEb e => e.wf
  | .imulEv _ e => e.wf
  | .divEb e => e.wf
  | .divEv _ e => e.wf
  | .idivEb e => e.wf
  | .idivEv _ e => e.wf
  | .rolEbIb e _ => e.wf
  | .rolEvIb _ e _ => e.wf
  | .rolEb1 e => e.wf
  | .rolEv1 _ e => e.wf
  | .rolEbCl e => e.wf
  | .rolEvCl _ e => e.wf
  | .rorEbIb e _ => e.wf
  | .rorEvIb _ e _ => e.wf
  | .rorEb1 e => e.wf
  | .rorEv1 _ e => e.wf
  | .rorEbCl e => e.wf
  | .rorEvCl _ e => e.wf
  | .rclEbIb e _ => e.wf
  | .rclEvIb _ e _ => e.wf
  | .rclEb1 e => e.wf
  | .rclEv1 _ e => e.wf
  | .rclEbCl e => e.wf
  | .rclEvCl _ e => e.wf
  | .rcrEbIb e _ => e.wf
  | .rcrEvIb _ e _ => e.wf
  | .rcrEb1 e => e.wf
  | .rcrEv1 _ e => e.wf
  | .rcrEbCl e => e.wf
  | .rcrEvCl _ e => e.wf
  | .shlEbIb e _ => e.wf
  | .shlEvIb _ e _ => e.wf
  | .shlEb1 e => e.wf
  | .shlEv1 _ e => e.wf
  | .shlEbCl e => e.wf
  | .shlEvCl _ e => e.wf
  | .shrEbIb e _ => e.wf
  | .shrEvIb _ e _ => e.wf
  | .shrEb1 e => e.wf
  | .shrEv1 _ e => e.wf
  | .shrEbCl e => e.wf
  | .shrEvCl _ e => e.wf
  | .sarEbIb e _ => e.wf
  | .sarEvIb _ e _ => e.wf
  | .sarEb1 e => e.wf
  | .sarEv1 _ e => e.wf
  | .sarEbCl e => e.wf
  | .sarEvCl _ e => e.wf
  | .jmpEv e => e.wf
  | .jmpMp m => m.wf
  | .callEv e => e.wf
  | .callMp m => m.wf
  | .movEbGb e _ => e.wf
  | .movEvGv _ e _ => e.wf
  | .movGbEb _ e => e.wf
  | .movGvEv _ _ e => e.wf
  | .movRegIv o _ imm => immFits o imm
  | .movEbIb e _ => e.wf
  | .movEvIv o e imm => e.wf && immFits o imm
  | .movEwSw e _ => e.wf
  | .movSwEw r e => e.wf && r != .cs
  | .xchgEbGb e _ => e.wf
  | .xchgEvGv _ e _ => e.wf
  | .leaGvM _ _ m => m.wf
  | .lesGvMp _ _ m => m.wf
  | .ldsGvMp _ _ m => m.wf
  | .lssGvMp _ _ m => m.wf
  | .lfsGvMp _ _ m => m.wf
  | .lgsGvMp _ _ m => m.wf
  | .pushEv e => e.wf
  | .popEv e => e.wf
  | .addAlIb _ | .orAlIb _ | .adcAlIb _ | .sbbAlIb _ | .andAlIb _ | .subAlIb _ | .xorAlIb _ | .cmpAlIb _
  | .testAlIb _ | .incReg _ _ | .decReg _ _ | .cbw | .cwde | .cwd | .cdq | .clc | .stc | .cmc | .cld | .std
  | .cli | .sti | .lahf | .sahf | .pushf | .popf | .jo _ | .jno _ | .jc _ | .jnc _ | .jz _ | .jnz _ | .jbe _
  | .ja _ | .js _ | .jns _ | .jpe _ | .jpo _ | .jl _ | .jge _ | .jle _ | .jg _ | .loopne _ | .loope _ | .loop _
  | .jcxz _ | .jmpRel16 _ | .jmpRel8 _ | .jmpFar _ _ | .callRel16 _ | .callFar _ _ | .ret | .retIw _ | .retf
  | .retfIw _ | .intIb _ | .int3 | .into | .iret | .hlt | .movsb _ | .repMovsb _ | .movsw _ | .repMovsw _
  | .movsd _ | .repMovsd _ | .cmpsb _ | .repeCmpsb _ | .repneCmpsb _ | .cmpsw _ | .repeCmpsw _ | .repneCmpsw _
  | .cmpsd _ | .repeCmpsd _ | .repneCmpsd _ | .stosb | .repStosb | .stosw | .repStosw | .stosd | .repStosd
  | .lodsb _ | .repLodsb _ | .lodsw _ | .repLodsw _ | .lodsd _ | .repLodsd _ | .scasb | .repeScasb | .repneScasb
  | .scasw | .repeScasw | .repneScasw | .scasd | .repeScasd | .repneScasd | .movRegIb _ _ | .movAlMoffs _ _
  | .movEaxMoffs _ _ _ | .movMoffsAl _ _ | .movMoffsEax _ _ _ | .xchgEaxCx _ | .xchgEaxDx _ | .xchgEaxBx _
  | .xchgEaxSp _ | .xchgEaxBp _ | .xchgEaxSi _ | .xchgEaxDi _ | .nop _ | .xlat _ | .pushReg _ | .pushEs | .pushCs
  | .pushSs | .pushDs | .popReg _ | .popEs | .popSs | .popDs | .segEs | .segCs | .segSs | .segDs | .segFs
  | .segGs | .opSize | .repE | .repNe => true

end Sys2Proof
end

