-- ==== Sys2Proof/Decode.lean ====
section
/-! DEFINITION. The decoder (30_encoding.md R110-R173), total on any bytes, and the encoder from the same tables. -/

namespace Sys2Proof

/-! ## Field codes (10_state.md R31, R36; 30_encoding.md R122) -/

/-- The 3-bit register code (10_state.md R31). -/
def Reg.code : Reg → BitVec 3
  | .ax => 0 | .cx => 1 | .dx => 2 | .bx => 3 | .sp => 4 | .bp => 5 | .si => 6 | .di => 7

/-- The register of a 3-bit code. -/
def Reg.ofCode (c : BitVec 3) : Reg :=
  match c.toNat with
  | 0 => .ax | 1 => .cx | 2 => .dx | 3 => .bx | 4 => .sp | 5 => .bp | 6 => .si | _ => .di

/-- The 3-bit segment-register code (10_state.md R36). -/
def SReg.code : SReg → BitVec 3
  | .es => 0 | .cs => 1 | .ss => 2 | .ds => 3 | .fs => 4 | .gs => 5

/-- The segment register of a code; 6 and 7 name none (10_state.md R36). -/
def SReg.ofCode (c : BitVec 3) : Option SReg :=
  match c.toNat with
  | 0 => some .es | 1 => some .cs | 2 => some .ss | 3 => some .ds | 4 => some .fs | 5 => some .gs | _ => none

/-- ModR/M `rm` of a memory form (30_encoding.md R122). -/
def EABase.code : EABase → BitVec 3
  | .bxSi => 0 | .bxDi => 1 | .bpSi => 2 | .bpDi => 3 | .si => 4 | .di => 5 | .bp => 6 | .bx => 7

/-- The base registers of an `rm` value (30_encoding.md R122). -/
def EABase.ofCode (c : BitVec 3) : EABase :=
  match c.toNat with
  | 0 => .bxSi | 1 => .bxDi | 2 => .bpSi | 3 => .bpDi | 4 => .si | 5 => .di | 6 => .bp | _ => .bx

/-! ## Reading fields in fetch order -/

/-- What decoding one unit (a prefix byte, or an instruction after its prefixes) gives; `n` is the number of its bytes
that were fetched. `unhandled` and `malformed` are the decode faults of 30_encoding.md R170, R171; `short` says that the
byte of index `n` is needed and not there. -/
inductive Decoded where
  | ok (i : Instr) (n : Nat)
  | unhandled (n : Nat)
  | malformed (n : Nat)
  | short (n : Nat)
deriving DecidableEq, Repr

/-- Fetch one byte. -/
def takeByte (bs : List Byte) (n : Nat) (k : Byte → List Byte → Nat → Decoded) : Decoded :=
  match bs with
  | [] => .short n
  | b :: rest => k b rest (n + 1)

/-- Fetch a little-endian word (30_encoding.md R126). -/
def takeWord (bs : List Byte) (n : Nat) (k : Word → List Byte → Nat → Decoded) : Decoded :=
  takeByte bs n fun lo bs n => takeByte bs n fun hi bs n => k (hi ++ lo) bs n

/-- Fetch a little-endian dword (30_encoding.md R126). -/
def takeDword (bs : List Byte) (n : Nat) (k : Dword → List Byte → Nat → Decoded) : Decoded :=
  takeWord bs n fun lo bs n => takeWord bs n fun hi bs n => k (hi ++ lo) bs n

/-- Fetch an `Iv` immediate: 2 bytes, or 4 under 0x66 (30_encoding.md R126). -/
def takeIv (o : OSize) (bs : List Byte) (n : Nat) (k : Dword → List Byte → Nat → Decoded) : Decoded :=
  match o with
  | .o16 => takeWord bs n fun v bs n => k (v.setWidth 32) bs n
  | .o32 => takeDword bs n k

/-- Fetch the ModR/M byte: `mod = b[7:6]`, `reg = b[5:3]`, `rm = b[2:0]` (30_encoding.md R119). -/
def takeModRM (bs : List Byte) (n : Nat)
    (k : BitVec 2 → BitVec 3 → BitVec 3 → List Byte → Nat → Decoded) : Decoded :=
  takeByte bs n fun b bs n => k (b.extractLsb' 6 2) (b.extractLsb' 3 3) (b.extractLsb' 0 3) bs n

/-- The memory form of `mod` (not 11) and `rm`, with its displacement bytes (30_encoding.md R122). -/
def takeForm (mod : BitVec 2) (rm : BitVec 3) (bs : List Byte) (n : Nat)
    (k : MemForm → List Byte → Nat → Decoded) : Decoded :=
  match mod.toNat with
  | 0 => if rm = 6#3 then takeWord bs n fun d bs n => k (.direct d) bs n else k (.base (EABase.ofCode rm)) bs n
  | 1 => takeByte bs n fun d bs n => k (.disp8 (EABase.ofCode rm) d) bs n
  | _ => takeWord bs n fun d bs n => k (.disp16 (EABase.ofCode rm) d) bs n

/-- The `E` operand of `mod` and `rm`; `mod = 11` names a register (30_encoding.md R123). -/
def takeE (p : Prefixes) (mod : BitVec 2) (rm : BitVec 3) (bs : List Byte) (n : Nat)
    (k : RM → List Byte → Nat → Decoded) : Decoded :=
  if mod = 3#2 then k (.reg (Reg.ofCode rm)) bs n
  else takeForm mod rm bs n fun f bs n => k (.mem ⟨p.segOvr, f⟩) bs n

/-! ## Row checks and row shapes -/

/-- The row checks of 30_encoding.md R130, made when `n` bytes are fetched: 0x66 only on the rows of R172 (`v`), F2 and
F3 on no row but the string rows (46_string.md R471). -/
def checkRow (p : Prefixes) (v : Bool) (n : Nat) (k : Decoded) : Decoded :=
  if p.osz = .o32 ∧ v = false then .unhandled n
  else if p.rep ≠ none then .unhandled n
  else k

/-- A row without operand bytes. -/
def rowNone (p : Prefixes) (v : Bool) (n : Nat) (i : Instr) : Decoded := checkRow p v n (.ok i n)

/-- A row with a byte after the opcode (`Ib`, `rel8`). -/
def rowIb (p : Prefixes) (v : Bool) (bs : List Byte) (n : Nat) (mk : Byte → Instr) : Decoded :=
  checkRow p v n (takeByte bs n fun b _ n => .ok (mk b) n)

/-- A row with a word after the opcode (`Iw`, `rel16`, `moffs`). -/
def rowIw (p : Prefixes) (v : Bool) (bs : List Byte) (n : Nat) (mk : Word → Instr) : Decoded :=
  checkRow p v n (takeWord bs n fun w _ n => .ok (mk w) n)

/-- A row with an `Iv` immediate after the opcode. -/
def rowIv (p : Prefixes) (bs : List Byte) (n : Nat) (mk : Dword → Instr) : Decoded :=
  checkRow p true n (takeIv p.osz bs n fun v _ n => .ok (mk v) n)

/-- A row with a direct far pointer: offset word, then selector word (30_encoding.md R126). -/
def rowFar (p : Prefixes) (bs : List Byte) (n : Nat) (mk : Word → Word → Instr) : Decoded :=
  checkRow p false n (takeWord bs n fun off bs n => takeWord bs n fun sel _ n => .ok (mk sel off) n)

/-- The rest of a group row with an `E` operand, after its ModR/M byte. -/
def tailE (p : Prefixes) (v : Bool) (mod : BitVec 2) (rm : BitVec 3) (bs : List Byte) (n : Nat) (mk : RM → Instr) :
    Decoded :=
  checkRow p v n (takeE p mod rm bs n fun e _ n => .ok (mk e) n)

/-- The rest of a group row with an `E` operand and a byte immediate. -/
def tailEIb (p : Prefixes) (v : Bool) (mod : BitVec 2) (rm : BitVec 3) (bs : List Byte) (n : Nat)
    (mk : RM → Byte → Instr) : Decoded :=
  checkRow p v n (takeE p mod rm bs n fun e bs n => takeByte bs n fun b _ n => .ok (mk e b) n)

/-- The rest of a group row with an `E` operand and an `Iv` immediate. -/
def tailEIv (p : Prefixes) (mod : BitVec 2) (rm : BitVec 3) (bs : List Byte) (n : Nat) (mk : RM → Dword → Instr) :
    Decoded :=
  checkRow p true n (takeE p mod rm bs n fun e bs n => takeIv p.osz bs n fun v _ n => .ok (mk e v) n)

/-- The rest of a row whose operand must be memory: `mod = 11` is MalformedInstruction (30_encoding.md R171). -/
def tailM (p : Prefixes) (v : Bool) (mod : BitVec 2) (rm : BitVec 3) (bs : List Byte) (n : Nat) (mk : MemRef → Instr) :
    Decoded :=
  checkRow p v n (if mod = 3#2 then .malformed n else takeForm mod rm bs n fun f _ n => .ok (mk ⟨p.segOvr, f⟩) n)

/-- A row with operands `E` and `G`. -/
def rowEG (p : Prefixes) (v : Bool) (bs : List Byte) (n : Nat) (mk : RM → Reg → Instr) : Decoded :=
  takeModRM bs n fun mod reg rm bs n => tailE p v mod rm bs n fun e => mk e (Reg.ofCode reg)

/-- A row with operands `G` and `M` or `Mp`. -/
def rowGM (p : Prefixes) (bs : List Byte) (n : Nat) (mk : Reg → MemRef → Instr) : Decoded :=
  takeModRM bs n fun mod reg rm bs n => tailM p true mod rm bs n fun m => mk (Reg.ofCode reg) m

/-- MOV `Ew, Sw` (8C): codes 6 and 7 are MalformedInstruction (30_encoding.md R171). -/
def rowFromSreg (p : Prefixes) (bs : List Byte) (n : Nat) : Decoded :=
  takeModRM bs n fun mod reg rm bs n =>
    checkRow p false n
      (match SReg.ofCode reg with
       | none => .malformed n
       | some r => takeE p mod rm bs n fun e _ n => .ok (.movEwSw e r) n)

/-- MOV `Sw, Ew` (8E): codes 6 and 7, and CS, are MalformedInstruction (30_encoding.md R171). -/
def rowToSreg (p : Prefixes) (bs : List Byte) (n : Nat) : Decoded :=
  takeModRM bs n fun mod reg rm bs n =>
    checkRow p false n
      (match SReg.ofCode reg with
       | none => .malformed n
       | some .cs => .malformed n
       | some r => takeE p mod rm bs n fun e _ n => .ok (.movSwEw r e) n)

/-- A byte string row (0x66 not admitted): `f3`, `f2` are its rows under F3 and F2 (46_string.md R471). -/
def rowStringB (p : Prefixes) (n : Nat) (plain f3 : Instr) (f2 : Option Instr) : Decoded :=
  if p.osz = .o32 then .unhandled n
  else
    match p.rep with
    | none => .ok plain n
    | some .z => .ok f3 n
    | some .nz =>
      match f2 with
      | none => .unhandled n
      | some i => .ok i n

/-- A word or dword string row, told apart by `OSZ`. -/
def rowStringV (p : Prefixes) (n : Nat) (wPlain wF3 : Instr) (wF2 : Option Instr) (dPlain dF3 : Instr)
    (dF2 : Option Instr) : Decoded :=
  match p.osz with
  | .o16 => rowStringB p n wPlain wF3 wF2
  | .o32 => rowStringB { p with osz := .o16 } n dPlain dF3 dF2

/-! ## Groups (30_encoding.md R160-R165) -/

/-- Group 1, `Eb, Ib` (80). -/
def group80 (p : Prefixes) (bs : List Byte) (n : Nat) : Decoded :=
  takeModRM bs n fun mod reg rm bs n =>
    match reg.toNat with
    | 0 => tailEIb p false mod rm bs n .addEbIb
    | 1 => tailEIb p false mod rm bs n .orEbIb
    | 2 => tailEIb p false mod rm bs n .adcEbIb
    | 3 => tailEIb p false mod rm bs n .sbbEbIb
    | 4 => tailEIb p false mod rm bs n .andEbIb
    | 5 => tailEIb p false mod rm bs n .subEbIb
    | 6 => tailEIb p false mod rm bs n .xorEbIb
    | _ => tailEIb p false mod rm bs n .cmpEbIb

/-- Group 1, `Ev, Iv` (81). -/
def group81 (p : Prefixes) (bs : List Byte) (n : Nat) : Decoded :=
  takeModRM bs n fun mod reg rm bs n =>
    match reg.toNat with
    | 0 => tailEIv p mod rm bs n (.addEvIv p.osz)
    | 1 => tailEIv p mod rm bs n (.orEvIv p.osz)
    | 2 => tailEIv p mod rm bs n (.adcEvIv p.osz)
    | 3 => tailEIv p mod rm bs n (.sbbEvIv p.osz)
    | 4 => tailEIv p mod rm bs n (.andEvIv p.osz)
    | 5 => tailEIv p mod rm bs n (.subEvIv p.osz)
    | 6 => tailEIv p mod rm bs n (.xorEvIv p.osz)
    | _ => tailEIv p mod rm bs n (.cmpEvIv p.osz)

/-- Group 1, `Ev, sIb` (83). -/
def group83 (p : Prefixes) (bs : List Byte) (n : Nat) : Decoded :=
  takeModRM bs n fun mod reg rm bs n =>
    match reg.toNat with
    | 0 => tailEIb p true mod rm bs n (.addEvSIb p.osz)
    | 1 => tailEIb p true mod rm bs n (.orEvSIb p.osz)
    | 2 => tailEIb p true mod rm bs n (.adcEvSIb p.osz)
    | 3 => tailEIb p true mod rm bs n (.sbbEvSIb p.osz)
    | 4 => tailEIb p true mod rm bs n (.andEvSIb p.osz)
    | 5 => tailEIb p true mod rm bs n (.subEvSIb p.osz)
    | 6 => tailEIb p true mod rm bs n (.xorEvSIb p.osz)
    | _ => tailEIb p true mod rm bs n (.cmpEvSIb p.osz)

/-- Group 2 (C0); /6 is refused. -/
def groupC0 (p : Prefixes) (bs : List Byte) (n : Nat) : Decoded :=
  takeModRM bs n fun mod reg rm bs n =>
    match reg.toNat with
    | 0 => tailEIb p false mod rm bs n .rolEbIb
    | 1 => tailEIb p false mod rm bs n .rorEbIb
    | 2 => tailEIb p false mod rm bs n .rclEbIb
    | 3 => tailEIb p false mod rm bs n .rcrEbIb
    | 4 => tailEIb p false mod rm bs n .shlEbIb
    | 5 => tailEIb p false mod rm bs n .shrEbIb
    | 7 => tailEIb p false mod rm bs n .sarEbIb
    | _ => .unhandled n

/-- Group 2 (C1); /6 is refused. -/
def groupC1 (p : Prefixes) (bs : List Byte) (n : Nat) : Decoded :=
  takeModRM bs n fun mod reg rm bs n =>
    match reg.toNat with
    | 0 => tailEIb p true mod rm bs n (.rolEvIb p.osz)
    | 1 => tailEIb p true mod rm bs n (.rorEvIb p.osz)
    | 2 => tailEIb p true mod rm bs n (.rclEvIb p.osz)
    | 3 => tailEIb p true mod rm bs n (.rcrEvIb p.osz)
    | 4 => tailEIb p true mod rm bs n (.shlEvIb p.osz)
    | 5 => tailEIb p true mod rm bs n (.shrEvIb p.osz)
    | 7 => tailEIb p true mod rm bs n (.sarEvIb p.osz)
    | _ => .unhandled n

/-- Group 2 (D0); /6 is refused. -/
def groupD0 (p : Prefixes) (bs : List Byte) (n : Nat) : Decoded :=
  takeModRM bs n fun mod reg rm bs n =>
    match reg.toNat with
    | 0 => tailE p false mod rm bs n .rolEb1
    | 1 => tailE p false mod rm bs n .rorEb1
    | 2 => tailE p false mod rm bs n .rclEb1
    | 3 => tailE p false mod rm bs n .rcrEb1
    | 4 => tailE p false mod rm bs n .shlEb1
    | 5 => tailE p false mod rm bs n .shrEb1
    | 7 => tailE p false mod rm bs n .sarEb1
    | _ => .unhandled n

/-- Group 2 (D1); /6 is refused. -/
def groupD1 (p : Prefixes) (bs : List Byte) (n : Nat) : Decoded :=
  takeModRM bs n fun mod reg rm bs n =>
    match reg.toNat with
    | 0 => tailE p true mod rm bs n (.rolEv1 p.osz)
    | 1 => tailE p true mod rm bs n (.rorEv1 p.osz)
    | 2 => tailE p true mod rm bs n (.rclEv1 p.osz)
    | 3 => tailE p true mod rm bs n (.rcrEv1 p.osz)
    | 4 => tailE p true mod rm bs n (.shlEv1 p.osz)
    | 5 => tailE p true mod rm bs n (.shrEv1 p.osz)
    | 7 => tailE p true mod rm bs n (.sarEv1 p.osz)
    | _ => .unhandled n

/-- Group 2 (D2); /6 is refused. -/
def groupD2 (p : Prefixes) (bs : List Byte) (n : Nat) : Decoded :=
  takeModRM bs n fun mod reg rm bs n =>
    match reg.toNat with
    | 0 => tailE p false mod rm bs n .rolEbCl
    | 1 => tailE p false mod rm bs n .rorEbCl
    | 2 => tailE p false mod rm bs n .rclEbCl
    | 3 => tailE p false mod rm bs n .rcrEbCl
    | 4 => tailE p false mod rm bs n .shlEbCl
    | 5 => tailE p false mod rm bs n .shrEbCl
    | 7 => tailE p false mod rm bs n .sarEbCl
    | _ => .unhandled n

/-- Group 2 (D3); /6 is refused. -/
def groupD3 (p : Prefixes) (bs : List Byte) (n : Nat) : Decoded :=
  takeModRM bs n fun mod reg rm bs n =>
    match reg.toNat with
    | 0 => tailE p true mod rm bs n (.rolEvCl p.osz)
    | 1 => tailE p true mod rm bs n (.rorEvCl p.osz)
    | 2 => tailE p true mod rm bs n (.rclEvCl p.osz)
    | 3 => tailE p true mod rm bs n (.rcrEvCl p.osz)
    | 4 => tailE p true mod rm bs n (.shlEvCl p.osz)
    | 5 => tailE p true mod rm bs n (.shrEvCl p.osz)
    | 7 => tailE p true mod rm bs n (.sarEvCl p.osz)
    | _ => .unhandled n

/-- Group 3, `Eb` (F6); /1 is refused. -/
def groupF6 (p : Prefixes) (bs : List Byte) (n : Nat) : Decoded :=
  takeModRM bs n fun mod reg rm bs n =>
    match reg.toNat with
    | 0 => tailEIb p false mod rm bs n .testEbIb
    | 2 => tailE p false mod rm bs n .notEb
    | 3 => tailE p false mod rm bs n .negEb
    | 4 => tailE p false mod rm bs n .mulEb
    | 5 => tailE p false mod rm bs n .imulEb
    | 6 => tailE p false mod rm bs n .divEb
    | 7 => tailE p false mod rm bs n .idivEb
    | _ => .unhandled n

/-- Group 3, `Ev` (F7); /1 is refused. -/
def groupF7 (p : Prefixes) (bs : List Byte) (n : Nat) : Decoded :=
  takeModRM bs n fun mod reg rm bs n =>
    match reg.toNat with
    | 0 => tailEIv p mod rm bs n (.testEvIv p.osz)
    | 2 => tailE p true mod rm bs n (.notEv p.osz)
    | 3 => tailE p true mod rm bs n (.negEv p.osz)
    | 4 => tailE p true mod rm bs n (.mulEv p.osz)
    | 5 => tailE p true mod rm bs n (.imulEv p.osz)
    | 6 => tailE p true mod rm bs n (.divEv p.osz)
    | 7 => tailE p true mod rm bs n (.idivEv p.osz)
    | _ => .unhandled n

/-- Group 4 (FE); /2 to /7 are refused. -/
def groupFE (p : Prefixes) (bs : List Byte) (n : Nat) : Decoded :=
  takeModRM bs n fun mod reg rm bs n =>
    match reg.toNat with
    | 0 => tailE p false mod rm bs n .incEb
    | 1 => tailE p false mod rm bs n .decEb
    | _ => .unhandled n

/-- Group 5 (FF); /7 is refused. -/
def groupFF (p : Prefixes) (bs : List Byte) (n : Nat) : Decoded :=
  takeModRM bs n fun mod reg rm bs n =>
    match reg.toNat with
    | 0 => tailE p true mod rm bs n (.incEv p.osz)
    | 1 => tailE p true mod rm bs n (.decEv p.osz)
    | 2 => tailE p false mod rm bs n .callEv
    | 3 => tailM p false mod rm bs n .callMp
    | 4 => tailE p false mod rm bs n .jmpEv
    | 5 => tailM p false mod rm bs n .jmpMp
    | 6 => tailE p false mod rm bs n .pushEv
    | _ => .unhandled n

/-- Group 1A (8F); /1 to /7 are refused. -/
def group8F (p : Prefixes) (bs : List Byte) (n : Nat) : Decoded :=
  takeModRM bs n fun mod reg rm bs n =>
    match reg.toNat with
    | 0 => tailE p false mod rm bs n .popEv
    | _ => .unhandled n

/-- Group 11, `Eb, Ib` (C6); /1 to /7 are refused. -/
def groupC6 (p : Prefixes) (bs : List Byte) (n : Nat) : Decoded :=
  takeModRM bs n fun mod reg rm bs n =>
    match reg.toNat with
    | 0 => tailEIb p false mod rm bs n .movEbIb
    | _ => .unhandled n

/-- Group 11, `Ev, Iv` (C7); /1 to /7 are refused. -/
def groupC7 (p : Prefixes) (bs : List Byte) (n : Nat) : Decoded :=
  takeModRM bs n fun mod reg rm bs n =>
    match reg.toNat with
    | 0 => tailEIv p mod rm bs n (.movEvIv p.osz)
    | _ => .unhandled n

/-- Two-byte opcodes 0F xx (30_encoding.md R165); every second byte but B2, B4, B5 is refused. -/
def row0F (p : Prefixes) (bs : List Byte) (n : Nat) : Decoded :=
  takeByte bs n fun op bs n =>
    match op.toNat with
    | 0xB2 => rowGM p bs n (.lssGvMp p.osz)
    | 0xB4 => rowGM p bs n (.lfsGvMp p.osz)
    | 0xB5 => rowGM p bs n (.lgsGvMp p.osz)
    | _ => .unhandled n

/-! ## The one-byte opcode map (30_encoding.md R140-R143), sixteen rows of sixteen; a byte not listed is refused (R170) -/

/-- Opcodes 00-0F. -/
def opcodes0 (p : Prefixes) (bs : List Byte) (n : Nat) (lo : Nat) : Decoded :=
  match lo with
  | 0x0 => rowEG p false bs n .addEbGb
  | 0x1 => rowEG p true bs n (.addEvGv p.osz)
  | 0x2 => rowEG p false bs n fun e g => .addGbEb g e
  | 0x3 => rowEG p true bs n fun e g => .addGvEv p.osz g e
  | 0x4 => rowIb p false bs n .addAlIb
  | 0x5 => rowIv p bs n (.addEaxIv p.osz)
  | 0x6 => rowNone p false n .pushEs
  | 0x7 => rowNone p false n .popEs
  | 0x8 => rowEG p false bs n .orEbGb
  | 0x9 => rowEG p true bs n (.orEvGv p.osz)
  | 0xA => rowEG p false bs n fun e g => .orGbEb g e
  | 0xB => rowEG p true bs n fun e g => .orGvEv p.osz g e
  | 0xC => rowIb p false bs n .orAlIb
  | 0xD => rowIv p bs n (.orEaxIv p.osz)
  | 0xE => rowNone p false n .pushCs
  | 0xF => row0F p bs n
  | _ => .unhandled n

/-- Opcodes 10-1F. -/
def opcodes1 (p : Prefixes) (bs : List Byte) (n : Nat) (lo : Nat) : Decoded :=
  match lo with
  | 0x0 => rowEG p false bs n .adcEbGb
  | 0x1 => rowEG p true bs n (.adcEvGv p.osz)
  | 0x2 => rowEG p false bs n fun e g => .adcGbEb g e
  | 0x3 => rowEG p true bs n fun e g => .adcGvEv p.osz g e
  | 0x4 => rowIb p false bs n .adcAlIb
  | 0x5 => rowIv p bs n (.adcEaxIv p.osz)
  | 0x6 => rowNone p false n .pushSs
  | 0x7 => rowNone p false n .popSs
  | 0x8 => rowEG p false bs n .sbbEbGb
  | 0x9 => rowEG p true bs n (.sbbEvGv p.osz)
  | 0xA => rowEG p false bs n fun e g => .sbbGbEb g e
  | 0xB => rowEG p true bs n fun e g => .sbbGvEv p.osz g e
  | 0xC => rowIb p false bs n .sbbAlIb
  | 0xD => rowIv p bs n (.sbbEaxIv p.osz)
  | 0xE => rowNone p false n .pushDs
  | 0xF => rowNone p false n .popDs
  | _ => .unhandled n

/-- Opcodes 20-2F. -/
def opcodes2 (p : Prefixes) (bs : List Byte) (n : Nat) (lo : Nat) : Decoded :=
  match lo with
  | 0x0 => rowEG p false bs n .andEbGb
  | 0x1 => rowEG p true bs n (.andEvGv p.osz)
  | 0x2 => rowEG p false bs n fun e g => .andGbEb g e
  | 0x3 => rowEG p true bs n fun e g => .andGvEv p.osz g e
  | 0x4 => rowIb p false bs n .andAlIb
  | 0x5 => rowIv p bs n (.andEaxIv p.osz)
  | 0x6 => .ok .segEs n
  | 0x8 => rowEG p false bs n .subEbGb
  | 0x9 => rowEG p true bs n (.subEvGv p.osz)
  | 0xA => rowEG p false bs n fun e g => .subGbEb g e
  | 0xB => rowEG p true bs n fun e g => .subGvEv p.osz g e
  | 0xC => rowIb p false bs n .subAlIb
  | 0xD => rowIv p bs n (.subEaxIv p.osz)
  | 0xE => .ok .segCs n
  | _ => .unhandled n

/-- Opcodes 30-3F. -/
def opcodes3 (p : Prefixes) (bs : List Byte) (n : Nat) (lo : Nat) : Decoded :=
  match lo with
  | 0x0 => rowEG p false bs n .xorEbGb
  | 0x1 => rowEG p true bs n (.xorEvGv p.osz)
  | 0x2 => rowEG p false bs n fun e g => .xorGbEb g e
  | 0x3 => rowEG p true bs n fun e g => .xorGvEv p.osz g e
  | 0x4 => rowIb p false bs n .xorAlIb
  | 0x5 => rowIv p bs n (.xorEaxIv p.osz)
  | 0x6 => .ok .segSs n
  | 0x8 => rowEG p false bs n .cmpEbGb
  | 0x9 => rowEG p true bs n (.cmpEvGv p.osz)
  | 0xA => rowEG p false bs n fun e g => .cmpGbEb g e
  | 0xB => rowEG p true bs n fun e g => .cmpGvEv p.osz g e
  | 0xC => rowIb p false bs n .cmpAlIb
  | 0xD => rowIv p bs n (.cmpEaxIv p.osz)
  | 0xE => .ok .segDs n
  | _ => .unhandled n

/-- Opcodes 40-4F. -/
def opcodes4 (p : Prefixes) (_bs : List Byte) (n : Nat) (lo : Nat) : Decoded :=
  match lo with
  | 0x0 => rowNone p true n (.incReg p.osz .ax)
  | 0x1 => rowNone p true n (.incReg p.osz .cx)
  | 0x2 => rowNone p true n (.incReg p.osz .dx)
  | 0x3 => rowNone p true n (.incReg p.osz .bx)
  | 0x4 => rowNone p true n (.incReg p.osz .sp)
  | 0x5 => rowNone p true n (.incReg p.osz .bp)
  | 0x6 => rowNone p true n (.incReg p.osz .si)
  | 0x7 => rowNone p true n (.incReg p.osz .di)
  | 0x8 => rowNone p true n (.decReg p.osz .ax)
  | 0x9 => rowNone p true n (.decReg p.osz .cx)
  | 0xA => rowNone p true n (.decReg p.osz .dx)
  | 0xB => rowNone p true n (.decReg p.osz .bx)
  | 0xC => rowNone p true n (.decReg p.osz .sp)
  | 0xD => rowNone p true n (.decReg p.osz .bp)
  | 0xE => rowNone p true n (.decReg p.osz .si)
  | 0xF => rowNone p true n (.decReg p.osz .di)
  | _ => .unhandled n

/-- Opcodes 50-5F. -/
def opcodes5 (p : Prefixes) (_bs : List Byte) (n : Nat) (lo : Nat) : Decoded :=
  match lo with
  | 0x0 => rowNone p false n (.pushReg .ax)
  | 0x1 => rowNone p false n (.pushReg .cx)
  | 0x2 => rowNone p false n (.pushReg .dx)
  | 0x3 => rowNone p false n (.pushReg .bx)
  | 0x4 => rowNone p false n (.pushReg .sp)
  | 0x5 => rowNone p false n (.pushReg .bp)
  | 0x6 => rowNone p false n (.pushReg .si)
  | 0x7 => rowNone p false n (.pushReg .di)
  | 0x8 => rowNone p false n (.popReg .ax)
  | 0x9 => rowNone p false n (.popReg .cx)
  | 0xA => rowNone p false n (.popReg .dx)
  | 0xB => rowNone p false n (.popReg .bx)
  | 0xC => rowNone p false n (.popReg .sp)
  | 0xD => rowNone p false n (.popReg .bp)
  | 0xE => rowNone p false n (.popReg .si)
  | 0xF => rowNone p false n (.popReg .di)
  | _ => .unhandled n

/-- Opcodes 60-6F. -/
def opcodes6 (_p : Prefixes) (_bs : List Byte) (n : Nat) (lo : Nat) : Decoded :=
  match lo with
  | 0x4 => .ok .segFs n
  | 0x5 => .ok .segGs n
  | 0x6 => .ok .opSize n
  | _ => .unhandled n

/-- Opcodes 70-7F. -/
def opcodes7 (p : Prefixes) (bs : List Byte) (n : Nat) (lo : Nat) : Decoded :=
  match lo with
  | 0x0 => rowIb p false bs n .jo
  | 0x1 => rowIb p false bs n .jno
  | 0x2 => rowIb p false bs n .jc
  | 0x3 => rowIb p false bs n .jnc
  | 0x4 => rowIb p false bs n .jz
  | 0x5 => rowIb p false bs n .jnz
  | 0x6 => rowIb p false bs n .jbe
  | 0x7 => rowIb p false bs n .ja
  | 0x8 => rowIb p false bs n .js
  | 0x9 => rowIb p false bs n .jns
  | 0xA => rowIb p false bs n .jpe
  | 0xB => rowIb p false bs n .jpo
  | 0xC => rowIb p false bs n .jl
  | 0xD => rowIb p false bs n .jge
  | 0xE => rowIb p false bs n .jle
  | 0xF => rowIb p false bs n .jg
  | _ => .unhandled n

/-- Opcodes 80-8F. -/
def opcodes8 (p : Prefixes) (bs : List Byte) (n : Nat) (lo : Nat) : Decoded :=
  match lo with
  | 0x0 => group80 p bs n
  | 0x1 => group81 p bs n
  | 0x3 => group83 p bs n
  | 0x4 => rowEG p false bs n .testEbGb
  | 0x5 => rowEG p true bs n (.testEvGv p.osz)
  | 0x6 => rowEG p false bs n .xchgEbGb
  | 0x7 => rowEG p true bs n (.xchgEvGv p.osz)
  | 0x8 => rowEG p false bs n .movEbGb
  | 0x9 => rowEG p true bs n (.movEvGv p.osz)
  | 0xA => rowEG p false bs n fun e g => .movGbEb g e
  | 0xB => rowEG p true bs n fun e g => .movGvEv p.osz g e
  | 0xC => rowFromSreg p bs n
  | 0xD => rowGM p bs n (.leaGvM p.osz)
  | 0xE => rowToSreg p bs n
  | 0xF => group8F p bs n
  | _ => .unhandled n

/-- Opcodes 90-9F. -/
def opcodes9 (p : Prefixes) (bs : List Byte) (n : Nat) (lo : Nat) : Decoded :=
  match lo with
  | 0x0 => rowNone p true n (.nop p.osz)
  | 0x1 => rowNone p true n (.xchgEaxCx p.osz)
  | 0x2 => rowNone p true n (.xchgEaxDx p.osz)
  | 0x3 => rowNone p true n (.xchgEaxBx p.osz)
  | 0x4 => rowNone p true n (.xchgEaxSp p.osz)
  | 0x5 => rowNone p true n (.xchgEaxBp p.osz)
  | 0x6 => rowNone p true n (.xchgEaxSi p.osz)
  | 0x7 => rowNone p true n (.xchgEaxDi p.osz)
  | 0x8 => rowNone p true n (match p.osz with | .o16 => .cbw | .o32 => .cwde)
  | 0x9 => rowNone p true n (match p.osz with | .o16 => .cwd | .o32 => .cdq)
  | 0xA => rowFar p bs n .callFar
  | 0xC => rowNone p false n .pushf
  | 0xD => rowNone p false n .popf
  | 0xE => rowNone p false n .sahf
  | 0xF => rowNone p false n .lahf
  | _ => .unhandled n

/-- Opcodes A0-AF. -/
def opcodesA (p : Prefixes) (bs : List Byte) (n : Nat) (lo : Nat) : Decoded :=
  match lo with
  | 0x0 => rowIw p false bs n (.movAlMoffs p.segOvr)
  | 0x1 => rowIw p true bs n (.movEaxMoffs p.osz p.segOvr)
  | 0x2 => rowIw p false bs n (.movMoffsAl p.segOvr)
  | 0x3 => rowIw p true bs n (.movMoffsEax p.osz p.segOvr)
  | 0x4 => rowStringB p n (.movsb p.segOvr) (.repMovsb p.segOvr) none
  | 0x5 => rowStringV p n (.movsw p.segOvr) (.repMovsw p.segOvr) none (.movsd p.segOvr) (.repMovsd p.segOvr) none
  | 0x6 => rowStringB p n (.cmpsb p.segOvr) (.repeCmpsb p.segOvr) (some (.repneCmpsb p.segOvr))
  | 0x7 => rowStringV p n (.cmpsw p.segOvr) (.repeCmpsw p.segOvr) (some (.repneCmpsw p.segOvr)) (.cmpsd p.segOvr) (.repeCmpsd p.segOvr) (some (.repneCmpsd p.segOvr))
  | 0x8 => rowIb p false bs n .testAlIb
  | 0x9 => rowIv p bs n (.testEaxIv p.osz)
  | 0xA => rowStringB p n .stosb .repStosb none
  | 0xB => rowStringV p n .stosw .repStosw none .stosd .repStosd none
  | 0xC => rowStringB p n (.lodsb p.segOvr) (.repLodsb p.segOvr) none
  | 0xD => rowStringV p n (.lodsw p.segOvr) (.repLodsw p.segOvr) none (.lodsd p.segOvr) (.repLodsd p.segOvr) none
  | 0xE => rowStringB p n .scasb .repeScasb (some .repneScasb)
  | 0xF => rowStringV p n .scasw .repeScasw (some .repneScasw) .scasd .repeScasd (some .repneScasd)
  | _ => .unhandled n

/-- Opcodes B0-BF. -/
def opcodesB (p : Prefixes) (bs : List Byte) (n : Nat) (lo : Nat) : Decoded :=
  match lo with
  | 0x0 => rowIb p false bs n (.movRegIb .ax)
  | 0x1 => rowIb p false bs n (.movRegIb .cx)
  | 0x2 => rowIb p false bs n (.movRegIb .dx)
  | 0x3 => rowIb p false bs n (.movRegIb .bx)
  | 0x4 => rowIb p false bs n (.movRegIb .sp)
  | 0x5 => rowIb p false bs n (.movRegIb .bp)
  | 0x6 => rowIb p false bs n (.movRegIb .si)
  | 0x7 => rowIb p false bs n (.movRegIb .di)
  | 0x8 => rowIv p bs n (.movRegIv p.osz .ax)
  | 0x9 => rowIv p bs n (.movRegIv p.osz .cx)
  | 0xA => rowIv p bs n (.movRegIv p.osz .dx)
  | 0xB => rowIv p bs n (.movRegIv p.osz .bx)
  | 0xC => rowIv p bs n (.movRegIv p.osz .sp)
  | 0xD => rowIv p bs n (.movRegIv p.osz .bp)
  | 0xE => rowIv p bs n (.movRegIv p.osz .si)
  | 0xF => rowIv p bs n (.movRegIv p.osz .di)
  | _ => .unhandled n

/-- Opcodes C0-CF. -/
def opcodesC (p : Prefixes) (bs : List Byte) (n : Nat) (lo : Nat) : Decoded :=
  match lo with
  | 0x0 => groupC0 p bs n
  | 0x1 => groupC1 p bs n
  | 0x2 => rowIw p false bs n .retIw
  | 0x3 => rowNone p false n .ret
  | 0x4 => rowGM p bs n (.lesGvMp p.osz)
  | 0x5 => rowGM p bs n (.ldsGvMp p.osz)
  | 0x6 => groupC6 p bs n
  | 0x7 => groupC7 p bs n
  | 0xA => rowIw p false bs n .retfIw
  | 0xB => rowNone p false n .retf
  | 0xC => rowNone p false n .int3
  | 0xD => rowIb p false bs n .intIb
  | 0xE => rowNone p false n .into
  | 0xF => rowNone p false n .iret
  | _ => .unhandled n

/-- Opcodes D0-DF. -/
def opcodesD (p : Prefixes) (bs : List Byte) (n : Nat) (lo : Nat) : Decoded :=
  match lo with
  | 0x0 => groupD0 p bs n
  | 0x1 => groupD1 p bs n
  | 0x2 => groupD2 p bs n
  | 0x3 => groupD3 p bs n
  | 0x7 => rowNone p false n (.xlat p.segOvr)
  | _ => .unhandled n

/-- Opcodes E0-EF. -/
def opcodesE (p : Prefixes) (bs : List Byte) (n : Nat) (lo : Nat) : Decoded :=
  match lo with
  | 0x0 => rowIb p false bs n .loopne
  | 0x1 => rowIb p false bs n .loope
  | 0x2 => rowIb p false bs n .loop
  | 0x3 => rowIb p false bs n .jcxz
  | 0x8 => rowIw p false bs n .callRel16
  | 0x9 => rowIw p false bs n .jmpRel16
  | 0xA => rowFar p bs n .jmpFar
  | 0xB => rowIb p false bs n .jmpRel8
  | _ => .unhandled n

/-- Opcodes F0-FF. -/
def opcodesF (p : Prefixes) (bs : List Byte) (n : Nat) (lo : Nat) : Decoded :=
  match lo with
  | 0x2 => .ok .repNe n
  | 0x3 => .ok .repE n
  | 0x4 => rowNone p false n .hlt
  | 0x5 => rowNone p false n .cmc
  | 0x6 => groupF6 p bs n
  | 0x7 => groupF7 p bs n
  | 0x8 => rowNone p false n .clc
  | 0x9 => rowNone p false n .stc
  | 0xA => rowNone p false n .cli
  | 0xB => rowNone p false n .sti
  | 0xC => rowNone p false n .cld
  | 0xD => rowNone p false n .std
  | 0xE => groupFE p bs n
  | 0xF => groupFF p bs n
  | _ => .unhandled n

/-- The row of a first opcode byte. -/
def decodeOpcode (p : Prefixes) (op : Byte) (bs : List Byte) (n : Nat) : Decoded :=
  let lo := op.toNat % 16
  match op.toNat / 16 with
  | 0x0 => opcodes0 p bs n lo
  | 0x1 => opcodes1 p bs n lo
  | 0x2 => opcodes2 p bs n lo
  | 0x3 => opcodes3 p bs n lo
  | 0x4 => opcodes4 p bs n lo
  | 0x5 => opcodes5 p bs n lo
  | 0x6 => opcodes6 p bs n lo
  | 0x7 => opcodes7 p bs n lo
  | 0x8 => opcodes8 p bs n lo
  | 0x9 => opcodes9 p bs n lo
  | 0xA => opcodesA p bs n lo
  | 0xB => opcodesB p bs n lo
  | 0xC => opcodesC p bs n lo
  | 0xD => opcodesD p bs n lo
  | 0xE => opcodesE p bs n lo
  | _ => opcodesF p bs n lo

/-- Decode one unit: a prefix byte, or an instruction under the prefixes `p` already collected (30_encoding.md R130). -/
def decodeUnit (p : Prefixes) (bs : List Byte) : Decoded :=
  takeByte bs 0 fun op bs n => decodeOpcode p op bs n

/-- The longest instruction, prefixes included (30_encoding.md R116). -/
def maxLength : Nat := 15

/-- Decode units until one is an instruction; `n` bytes are behind. -/
def decodeUnits : Nat → Prefixes → List Byte → Nat → Decoded
  | 0, _, _, n => .short n
  | fuel + 1, p, bs, n =>
    match decodeUnit p bs with
    | .ok i m =>
      match i.asPrefix with
      | some q => decodeUnits fuel (p.collect q) (bs.drop m) (n + m)
      | none => .ok i (n + m)
    | .unhandled m => .unhandled (n + m)
    | .malformed m => .malformed (n + m)
    | .short m => .short (n + m)

/-- Decode an instruction with its prefixes from the bytes at its start. A 16th byte is UnhandledOpcode (R116); `short`
is left for a list that ends before the instruction does. -/
def decode (bs : List Byte) : Decoded :=
  match decodeUnits maxLength {} (bs.take maxLength) 0 with
  | .short n => if maxLength ≤ n then .unhandled n else .short n
  | d => d

/-! ## The encoder -/

/-- A little-endian word. -/
def wordBytes (v : Word) : List Byte := [v.extractLsb' 0 8, v.extractLsb' 8 8]

/-- A little-endian dword. -/
def dwordBytes (v : Dword) : List Byte :=
  [v.extractLsb' 0 8, v.extractLsb' 8 8, v.extractLsb' 16 8, v.extractLsb' 24 8]

/-- An `Iv` immediate. -/
def ivBytes : OSize → Dword → List Byte
  | .o16, v => wordBytes (v.extractLsb' 0 16)
  | .o32, v => dwordBytes v

/-- The layout `iiiii rrr` (30_encoding.md R117). -/
def opReg (op : Byte) (r : Reg) : Byte := op.extractLsb' 3 5 ++ r.code

/-- The ModR/M byte `mod << 6 | reg << 3 | rm` (30_encoding.md R119, R187). -/
def modrmByte (mod : BitVec 2) (reg rm : BitVec 3) : Byte := mod ++ reg ++ rm

/-- ModR/M byte and displacement of a memory form (30_encoding.md R122, R187). -/
def formBytes (reg : BitVec 3) : MemForm → List Byte
  | .base b => [modrmByte 0 reg b.code]
  | .direct d => modrmByte 0 reg 6 :: wordBytes d
  | .disp8 b d => [modrmByte 1 reg b.code, d]
  | .disp16 b d => modrmByte 2 reg b.code :: wordBytes d

/-- ModR/M byte and displacement of an `E` operand. -/
def eBytes (reg : BitVec 3) : RM → List Byte
  | .reg r => [modrmByte 3 reg r.code]
  | .mem m => formBytes reg m.form

/-- The override an `E` operand was decoded under. -/
def RM.ovr : RM → Option SReg
  | .reg _ => none
  | .mem m => m.ovr

/-- The bytes of a row after the prefixes. -/
def encodeUnit : Instr → List Byte
  | .addEbGb e g => 0x00 :: eBytes g.code e
  | .addEvGv _ e g => 0x01 :: eBytes g.code e
  | .addGbEb g e => 0x02 :: eBytes g.code e
  | .addGvEv _ g e => 0x03 :: eBytes g.code e
  | .addAlIb imm => [0x04, imm]
  | .addEaxIv o imm => 0x05 :: ivBytes o imm
  | .orEbGb e g => 0x08 :: eBytes g.code e
  | .orEvGv _ e g => 0x09 :: eBytes g.code e
  | .orGbEb g e => 0x0A :: eBytes g.code e
  | .orGvEv _ g e => 0x0B :: eBytes g.code e
  | .orAlIb imm => [0x0C, imm]
  | .orEaxIv o imm => 0x0D :: ivBytes o imm
  | .adcEbGb e g => 0x10 :: eBytes g.code e
  | .adcEvGv _ e g => 0x11 :: eBytes g.code e
  | .adcGbEb g e => 0x12 :: eBytes g.code e
  | .adcGvEv _ g e => 0x13 :: eBytes g.code e
  | .adcAlIb imm => [0x14, imm]
  | .adcEaxIv o imm => 0x15 :: ivBytes o imm
  | .sbbEbGb e g => 0x18 :: eBytes g.code e
  | .sbbEvGv _ e g => 0x19 :: eBytes g.code e
  | .sbbGbEb g e => 0x1A :: eBytes g.code e
  | .sbbGvEv _ g e => 0x1B :: eBytes g.code e
  | .sbbAlIb imm => [0x1C, imm]
  | .sbbEaxIv o imm => 0x1D :: ivBytes o imm
  | .andEbGb e g => 0x20 :: eBytes g.code e
  | .andEvGv _ e g => 0x21 :: eBytes g.code e
  | .andGbEb g e => 0x22 :: eBytes g.code e
  | .andGvEv _ g e => 0x23 :: eBytes g.code e
  | .andAlIb imm => [0x24, imm]
  | .andEaxIv o imm => 0x25 :: ivBytes o imm
  | .subEbGb e g => 0x28 :: eBytes g.code e
  | .subEvGv _ e g => 0x29 :: eBytes g.code e
  | .subGbEb g e => 0x2A :: eBytes g.code e
  | .subGvEv _ g e => 0x2B :: eBytes g.code e
  | .subAlIb imm => [0x2C, imm]
  | .subEaxIv o imm => 0x2D :: ivBytes o imm
  | .xorEbGb e g => 0x30 :: eBytes g.code e
  | .xorEvGv _ e g => 0x31 :: eBytes g.code e
  | .xorGbEb g e => 0x32 :: eBytes g.code e
  | .xorGvEv _ g e => 0x33 :: eBytes g.code e
  | .xorAlIb imm => [0x34, imm]
  | .xorEaxIv o imm => 0x35 :: ivBytes o imm
  | .cmpEbGb e g => 0x38 :: eBytes g.code e
  | .cmpEvGv _ e g => 0x39 :: eBytes g.code e
  | .cmpGbEb g e => 0x3A :: eBytes g.code e
  | .cmpGvEv _ g e => 0x3B :: eBytes g.code e
  | .cmpAlIb imm => [0x3C, imm]
  | .cmpEaxIv o imm => 0x3D :: ivBytes o imm
  | .addEbIb e imm => 0x80 :: (eBytes 0 e ++ [imm])
  | .addEvIv o e imm => 0x81 :: (eBytes 0 e ++ ivBytes o imm)
  | .addEvSIb _ e imm => 0x83 :: (eBytes 0 e ++ [imm])
  | .orEbIb e imm => 0x80 :: (eBytes 1 e ++ [imm])
  | .orEvIv o e imm => 0x81 :: (eBytes 1 e ++ ivBytes o imm)
  | .orEvSIb _ e imm => 0x83 :: (eBytes 1 e ++ [imm])
  | .adcEbIb e imm => 0x80 :: (eBytes 2 e ++ [imm])
  | .adcEvIv o e imm => 0x81 :: (eBytes 2 e ++ ivBytes o imm)
  | .adcEvSIb _ e imm => 0x83 :: (eBytes 2 e ++ [imm])
  | .sbbEbIb e imm => 0x80 :: (eBytes 3 e ++ [imm])
  | .sbbEvIv o e imm => 0x81 :: (eBytes 3 e ++ ivBytes o imm)
  | .sbbEvSIb _ e imm => 0x83 :: (eBytes 3 e ++ [imm])
  | .andEbIb e imm => 0x80 :: (eBytes 4 e ++ [imm])
  | .andEvIv o e imm => 0x81 :: (eBytes 4 e ++ ivBytes o imm)
  | .andEvSIb _ e imm => 0x83 :: (eBytes 4 e ++ [imm])
  | .subEbIb e imm => 0x80 :: (eBytes 5 e ++ [imm])
  | .subEvIv o e imm => 0x81 :: (eBytes 5 e ++ ivBytes o imm)
  | .subEvSIb _ e imm => 0x83 :: (eBytes 5 e ++ [imm])
  | .xorEbIb e imm => 0x80 :: (eBytes 6 e ++ [imm])
  | .xorEvIv o e imm => 0x81 :: (eBytes 6 e ++ ivBytes o imm)
  | .xorEvSIb _ e imm => 0x83 :: (eBytes 6 e ++ [imm])
  | .cmpEbIb e imm => 0x80 :: (eBytes 7 e ++ [imm])
  | .cmpEvIv o e imm => 0x81 :: (eBytes 7 e ++ ivBytes o imm)
  | .cmpEvSIb _ e imm => 0x83 :: (eBytes 7 e ++ [imm])
  | .testEbGb e g => 0x84 :: eBytes g.code e
  | .testEvGv _ e g => 0x85 :: eBytes g.code e
  | .testAlIb imm => [0xA8, imm]
  | .testEaxIv o imm => 0xA9 :: ivBytes o imm
  | .testEbIb e imm => 0xF6 :: (eBytes 0 e ++ [imm])
  | .testEvIv o e imm => 0xF7 :: (eBytes 0 e ++ ivBytes o imm)
  | .incReg _ r => [opReg 0x40 r]
  | .incEb e => 0xFE :: eBytes 0 e
  | .incEv _ e => 0xFF :: eBytes 0 e
  | .decReg _ r => [opReg 0x48 r]
  | .decEb e => 0xFE :: eBytes 1 e
  | .decEv _ e => 0xFF :: eBytes 1 e
  | .notEb e => 0xF6 :: eBytes 2 e
  | .notEv _ e => 0xF7 :: eBytes 2 e
  | .negEb e => 0xF6 :: eBytes 3 e
  | .negEv _ e => 0xF7 :: eBytes 3 e
  | .mulEb e => 0xF6 :: eBytes 4 e
  | .mulEv _ e => 0xF7 :: eBytes 4 e
  | .imulEb e => 0xF6 :: eBytes 5 e
  | .imulEv _ e => 0xF7 :: eBytes 5 e
  | .divEb e => 0xF6 :: eBytes 6 e
  | .divEv _ e => 0xF7 :: eBytes 6 e
  | .idivEb e => 0xF6 :: eBytes 7 e
  | .idivEv _ e => 0xF7 :: eBytes 7 e
  | .cbw => [0x98]
  | .cwde => [0x98]
  | .cwd => [0x99]
  | .cdq => [0x99]
  | .rolEbIb e imm => 0xC0 :: (eBytes 0 e ++ [imm])
  | .rolEvIb _ e imm => 0xC1 :: (eBytes 0 e ++ [imm])
  | .rolEb1 e => 0xD0 :: eBytes 0 e
  | .rolEv1 _ e => 0xD1 :: eBytes 0 e
  | .rolEbCl e => 0xD2 :: eBytes 0 e
  | .rolEvCl _ e => 0xD3 :: eBytes 0 e
  | .rorEbIb e imm => 0xC0 :: (eBytes 1 e ++ [imm])
  | .rorEvIb _ e imm => 0xC1 :: (eBytes 1 e ++ [imm])
  | .rorEb1 e => 0xD0 :: eBytes 1 e
  | .rorEv1 _ e => 0xD1 :: eBytes 1 e
  | .rorEbCl e => 0xD2 :: eBytes 1 e
  | .rorEvCl _ e => 0xD3 :: eBytes 1 e
  | .rclEbIb e imm => 0xC0 :: (eBytes 2 e ++ [imm])
  | .rclEvIb _ e imm => 0xC1 :: (eBytes 2 e ++ [imm])
  | .rclEb1 e => 0xD0 :: eBytes 2 e
  | .rclEv1 _ e => 0xD1 :: eBytes 2 e
  | .rclEbCl e => 0xD2 :: eBytes 2 e
  | .rclEvCl _ e => 0xD3 :: eBytes 2 e
  | .rcrEbIb e imm => 0xC0 :: (eBytes 3 e ++ [imm])
  | .rcrEvIb _ e imm => 0xC1 :: (eBytes 3 e ++ [imm])
  | .rcrEb1 e => 0xD0 :: eBytes 3 e
  | .rcrEv1 _ e => 0xD1 :: eBytes 3 e
  | .rcrEbCl e => 0xD2 :: eBytes 3 e
  | .rcrEvCl _ e => 0xD3 :: eBytes 3 e
  | .shlEbIb e imm => 0xC0 :: (eBytes 4 e ++ [imm])
  | .shlEvIb _ e imm => 0xC1 :: (eBytes 4 e ++ [imm])
  | .shlEb1 e => 0xD0 :: eBytes 4 e
  | .shlEv1 _ e => 0xD1 :: eBytes 4 e
  | .shlEbCl e => 0xD2 :: eBytes 4 e
  | .shlEvCl _ e => 0xD3 :: eBytes 4 e
  | .shrEbIb e imm => 0xC0 :: (eBytes 5 e ++ [imm])
  | .shrEvIb _ e imm => 0xC1 :: (eBytes 5 e ++ [imm])
  | .shrEb1 e => 0xD0 :: eBytes 5 e
  | .shrEv1 _ e => 0xD1 :: eBytes 5 e
  | .shrEbCl e => 0xD2 :: eBytes 5 e
  | .shrEvCl _ e => 0xD3 :: eBytes 5 e
  | .sarEbIb e imm => 0xC0 :: (eBytes 7 e ++ [imm])
  | .sarEvIb _ e imm => 0xC1 :: (eBytes 7 e ++ [imm])
  | .sarEb1 e => 0xD0 :: eBytes 7 e
  | .sarEv1 _ e => 0xD1 :: eBytes 7 e
  | .sarEbCl e => 0xD2 :: eBytes 7 e
  | .sarEvCl _ e => 0xD3 :: eBytes 7 e
  | .clc => [0xF8]
  | .stc => [0xF9]
  | .cmc => [0xF5]
  | .cld => [0xFC]
  | .std => [0xFD]
  | .cli => [0xFA]
  | .sti => [0xFB]
  | .lahf => [0x9F]
  | .sahf => [0x9E]
  | .pushf => [0x9C]
  | .popf => [0x9D]
  | .jo d => [0x70, d]
  | .jno d => [0x71, d]
  | .jc d => [0x72, d]
  | .jnc d => [0x73, d]
  | .jz d => [0x74, d]
  | .jnz d => [0x75, d]
  | .jbe d => [0x76, d]
  | .ja d => [0x77, d]
  | .js d => [0x78, d]
  | .jns d => [0x79, d]
  | .jpe d => [0x7A, d]
  | .jpo d => [0x7B, d]
  | .jl d => [0x7C, d]
  | .jge d => [0x7D, d]
  | .jle d => [0x7E, d]
  | .jg d => [0x7F, d]
  | .loopne d => [0xE0, d]
  | .loope d => [0xE1, d]
  | .loop d => [0xE2, d]
  | .jcxz d => [0xE3, d]
  | .jmpRel16 d => 0xE9 :: wordBytes d
  | .jmpRel8 d => [0xEB, d]
  | .jmpEv e => 0xFF :: eBytes 4 e
  | .jmpFar sel off => 0xEA :: (wordBytes off ++ wordBytes sel)
  | .jmpMp m => 0xFF :: formBytes 5 m.form
  | .callRel16 d => 0xE8 :: wordBytes d
  | .callEv e => 0xFF :: eBytes 2 e
  | .callFar sel off => 0x9A :: (wordBytes off ++ wordBytes sel)
  | .callMp m => 0xFF :: formBytes 3 m.form
  | .ret => [0xC3]
  | .retIw n => 0xC2 :: wordBytes n
  | .retf => [0xCB]
  | .retfIw n => 0xCA :: wordBytes n
  | .intIb n => [0xCD, n]
  | .int3 => [0xCC]
  | .into => [0xCE]
  | .iret => [0xCF]
  | .hlt => [0xF4]
  | .movsb _ => [0xA4]
  | .repMovsb _ => [0xA4]
  | .movsw _ => [0xA5]
  | .repMovsw _ => [0xA5]
  | .movsd _ => [0xA5]
  | .repMovsd _ => [0xA5]
  | .cmpsb _ => [0xA6]
  | .repeCmpsb _ => [0xA6]
  | .repneCmpsb _ => [0xA6]
  | .cmpsw _ => [0xA7]
  | .repeCmpsw _ => [0xA7]
  | .repneCmpsw _ => [0xA7]
  | .cmpsd _ => [0xA7]
  | .repeCmpsd _ => [0xA7]
  | .repneCmpsd _ => [0xA7]
  | .stosb => [0xAA]
  | .repStosb => [0xAA]
  | .stosw => [0xAB]
  | .repStosw => [0xAB]
  | .stosd => [0xAB]
  | .repStosd => [0xAB]
  | .lodsb _ => [0xAC]
  | .repLodsb _ => [0xAC]
  | .lodsw _ => [0xAD]
  | .repLodsw _ => [0xAD]
  | .lodsd _ => [0xAD]
  | .repLodsd _ => [0xAD]
  | .scasb => [0xAE]
  | .repeScasb => [0xAE]
  | .repneScasb => [0xAE]
  | .scasw => [0xAF]
  | .repeScasw => [0xAF]
  | .repneScasw => [0xAF]
  | .scasd => [0xAF]
  | .repeScasd => [0xAF]
  | .repneScasd => [0xAF]
  | .movEbGb e g => 0x88 :: eBytes g.code e
  | .movEvGv _ e g => 0x89 :: eBytes g.code e
  | .movGbEb g e => 0x8A :: eBytes g.code e
  | .movGvEv _ g e => 0x8B :: eBytes g.code e
  | .movRegIb r imm => [opReg 0xB0 r, imm]
  | .movRegIv o r imm => opReg 0xB8 r :: ivBytes o imm
  | .movEbIb e imm => 0xC6 :: (eBytes 0 e ++ [imm])
  | .movEvIv o e imm => 0xC7 :: (eBytes 0 e ++ ivBytes o imm)
  | .movAlMoffs _ off => 0xA0 :: wordBytes off
  | .movEaxMoffs _ _ off => 0xA1 :: wordBytes off
  | .movMoffsAl _ off => 0xA2 :: wordBytes off
  | .movMoffsEax _ _ off => 0xA3 :: wordBytes off
  | .movEwSw e r => 0x8C :: eBytes r.code e
  | .movSwEw r e => 0x8E :: eBytes r.code e
  | .xchgEbGb e g => 0x86 :: eBytes g.code e
  | .xchgEvGv _ e g => 0x87 :: eBytes g.code e
  | .xchgEaxCx _ => [0x91]
  | .xchgEaxDx _ => [0x92]
  | .xchgEaxBx _ => [0x93]
  | .xchgEaxSp _ => [0x94]
  | .xchgEaxBp _ => [0x95]
  | .xchgEaxSi _ => [0x96]
  | .xchgEaxDi _ => [0x97]
  | .nop _ => [0x90]
  | .leaGvM _ g m => 0x8D :: formBytes g.code m.form
  | .lesGvMp _ g m => 0xC4 :: formBytes g.code m.form
  | .ldsGvMp _ g m => 0xC5 :: formBytes g.code m.form
  | .lssGvMp _ g m => 0x0F :: 0xB2 :: formBytes g.code m.form
  | .lfsGvMp _ g m => 0x0F :: 0xB4 :: formBytes g.code m.form
  | .lgsGvMp _ g m => 0x0F :: 0xB5 :: formBytes g.code m.form
  | .xlat _ => [0xD7]
  | .pushReg r => [opReg 0x50 r]
  | .pushEs => [0x06]
  | .pushCs => [0x0E]
  | .pushSs => [0x16]
  | .pushDs => [0x1E]
  | .pushEv e => 0xFF :: eBytes 6 e
  | .popReg r => [opReg 0x58 r]
  | .popEs => [0x07]
  | .popSs => [0x17]
  | .popDs => [0x1F]
  | .popEv e => 0x8F :: eBytes 0 e
  | .segEs => [0x26]
  | .segCs => [0x2E]
  | .segSs => [0x36]
  | .segDs => [0x3E]
  | .segFs => [0x64]
  | .segGs => [0x65]
  | .opSize => [0x66]
  | .repE => [0xF3]
  | .repNe => [0xF2]

/-- The prefixes an instruction is decoded under, beside overrides without effect (30_encoding.md R113, R172, R471). -/
def Instr.prefixes : Instr → Prefixes
  | .addEbGb e _ => { segOvr := e.ovr }
  | .addEvGv o e _ => { segOvr := e.ovr, osz := o }
  | .addGbEb _ e => { segOvr := e.ovr }
  | .addGvEv o _ e => { segOvr := e.ovr, osz := o }
  | .addEaxIv o _ => { osz := o }
  | .orEbGb e _ => { segOvr := e.ovr }
  | .orEvGv o e _ => { segOvr := e.ovr, osz := o }
  | .orGbEb _ e => { segOvr := e.ovr }
  | .orGvEv o _ e => { segOvr := e.ovr, osz := o }
  | .orEaxIv o _ => { osz := o }
  | .adcEbGb e _ => { segOvr := e.ovr }
  | .adcEvGv o e _ => { segOvr := e.ovr, osz := o }
  | .adcGbEb _ e => { segOvr := e.ovr }
  | .adcGvEv o _ e => { segOvr := e.ovr, osz := o }
  | .adcEaxIv o _ => { osz := o }
  | .sbbEbGb e _ => { segOvr := e.ovr }
  | .sbbEvGv o e _ => { segOvr := e.ovr, osz := o }
  | .sbbGbEb _ e => { segOvr := e.ovr }
  | .sbbGvEv o _ e => { segOvr := e.ovr, osz := o }
  | .sbbEaxIv o _ => { osz := o }
  | .andEbGb e _ => { segOvr := e.ovr }
  | .andEvGv o e _ => { segOvr := e.ovr, osz := o }
  | .andGbEb _ e => { segOvr := e.ovr }
  | .andGvEv o _ e => { segOvr := e.ovr, osz := o }
  | .andEaxIv o _ => { osz := o }
  | .subEbGb e _ => { segOvr := e.ovr }
  | .subEvGv o e _ => { segOvr := e.ovr, osz := o }
  | .subGbEb _ e => { segOvr := e.ovr }
  | .subGvEv o _ e => { segOvr := e.ovr, osz := o }
  | .subEaxIv o _ => { osz := o }
  | .xorEbGb e _ => { segOvr := e.ovr }
  | .xorEvGv o e _ => { segOvr := e.ovr, osz := o }
  | .xorGbEb _ e => { segOvr := e.ovr }
  | .xorGvEv o _ e => { segOvr := e.ovr, osz := o }
  | .xorEaxIv o _ => { osz := o }
  | .cmpEbGb e _ => { segOvr := e.ovr }
  | .cmpEvGv o e _ => { segOvr := e.ovr, osz := o }
  | .cmpGbEb _ e => { segOvr := e.ovr }
  | .cmpGvEv o _ e => { segOvr := e.ovr, osz := o }
  | .cmpEaxIv o _ => { osz := o }
  | .addEbIb e _ => { segOvr := e.ovr }
  | .addEvIv o e _ => { segOvr := e.ovr, osz := o }
  | .addEvSIb o e _ => { segOvr := e.ovr, osz := o }
  | .orEbIb e _ => { segOvr := e.ovr }
  | .orEvIv o e _ => { segOvr := e.ovr, osz := o }
  | .orEvSIb o e _ => { segOvr := e.ovr, osz := o }
  | .adcEbIb e _ => { segOvr := e.ovr }
  | .adcEvIv o e _ => { segOvr := e.ovr, osz := o }
  | .adcEvSIb o e _ => { segOvr := e.ovr, osz := o }
  | .sbbEbIb e _ => { segOvr := e.ovr }
  | .sbbEvIv o e _ => { segOvr := e.ovr, osz := o }
  | .sbbEvSIb o e _ => { segOvr := e.ovr, osz := o }
  | .andEbIb e _ => { segOvr := e.ovr }
  | .andEvIv o e _ => { segOvr := e.ovr, osz := o }
  | .andEvSIb o e _ => { segOvr := e.ovr, osz := o }
  | .subEbIb e _ => { segOvr := e.ovr }
  | .subEvIv o e _ => { segOvr := e.ovr, osz := o }
  | .subEvSIb o e _ => { segOvr := e.ovr, osz := o }
  | .xorEbIb e _ => { segOvr := e.ovr }
  | .xorEvIv o e _ => { segOvr := e.ovr, osz := o }
  | .xorEvSIb o e _ => { segOvr := e.ovr, osz := o }
  | .cmpEbIb e _ => { segOvr := e.ovr }
  | .cmpEvIv o e _ => { segOvr := e.ovr, osz := o }
  | .cmpEvSIb o e _ => { segOvr := e.ovr, osz := o }
  | .testEbGb e _ => { segOvr := e.ovr }
  | .testEvGv o e _ => { segOvr := e.ovr, osz := o }
  | .testEaxIv o _ => { osz := o }
  | .testEbIb e _ => { segOvr := e.ovr }
  | .testEvIv o e _ => { segOvr := e.ovr, osz := o }
  | .incReg o _ => { osz := o }
  | .incEb e => { segOvr := e.ovr }
  | .incEv o e => { segOvr := e.ovr, osz := o }
  | .decReg o _ => { osz := o }
  | .decEb e => { segOvr := e.ovr }
  | .decEv o e => { segOvr := e.ovr, osz := o }
  | .notEb e => { segOvr := e.ovr }
  | .notEv o e => { segOvr := e.ovr, osz := o }
  | .negEb e => { segOvr := e.ovr }
  | .negEv o e => { segOvr := e.ovr, osz := o }
  | .mulEb e => { segOvr := e.ovr }
  | .mulEv o e => { segOvr := e.ovr, osz := o }
  | .imulEb e => { segOvr := e.ovr }
  | .imulEv o e => { segOvr := e.ovr, osz := o }
  | .divEb e => { segOvr := e.ovr }
  | .divEv o e => { segOvr := e.ovr, osz := o }
  | .idivEb e => { segOvr := e.ovr }
  | .idivEv o e => { segOvr := e.ovr, osz := o }
  | .cwde => { osz := .o32 }
  | .cdq => { osz := .o32 }
  | .rolEbIb e _ => { segOvr := e.ovr }
  | .rolEvIb o e _ => { segOvr := e.ovr, osz := o }
  | .rolEb1 e => { segOvr := e.ovr }
  | .rolEv1 o e => { segOvr := e.ovr, osz := o }
  | .rolEbCl e => { segOvr := e.ovr }
  | .rolEvCl o e => { segOvr := e.ovr, osz := o }
  | .rorEbIb e _ => { segOvr := e.ovr }
  | .rorEvIb o e _ => { segOvr := e.ovr, osz := o }
  | .rorEb1 e => { segOvr := e.ovr }
  | .rorEv1 o e => { segOvr := e.ovr, osz := o }
  | .rorEbCl e => { segOvr := e.ovr }
  | .rorEvCl o e => { segOvr := e.ovr, osz := o }
  | .rclEbIb e _ => { segOvr := e.ovr }
  | .rclEvIb o e _ => { segOvr := e.ovr, osz := o }
  | .rclEb1 e => { segOvr := e.ovr }
  | .rclEv1 o e => { segOvr := e.ovr, osz := o }
  | .rclEbCl e => { segOvr := e.ovr }
  | .rclEvCl o e => { segOvr := e.ovr, osz := o }
  | .rcrEbIb e _ => { segOvr := e.ovr }
  | .rcrEvIb o e _ => { segOvr := e.ovr, osz := o }
  | .rcrEb1 e => { segOvr := e.ovr }
  | .rcrEv1 o e => { segOvr := e.ovr, osz := o }
  | .rcrEbCl e => { segOvr := e.ovr }
  | .rcrEvCl o e => { segOvr := e.ovr, osz := o }
  | .shlEbIb e _ => { segOvr := e.ovr }
  | .shlEvIb o e _ => { segOvr := e.ovr, osz := o }
  | .shlEb1 e => { segOvr := e.ovr }
  | .shlEv1 o e => { segOvr := e.ovr, osz := o }
  | .shlEbCl e => { segOvr := e.ovr }
  | .shlEvCl o e => { segOvr := e.ovr, osz := o }
  | .shrEbIb e _ => { segOvr := e.ovr }
  | .shrEvIb o e _ => { segOvr := e.ovr, osz := o }
  | .shrEb1 e => { segOvr := e.ovr }
  | .shrEv1 o e => { segOvr := e.ovr, osz := o }
  | .shrEbCl e => { segOvr := e.ovr }
  | .shrEvCl o e => { segOvr := e.ovr, osz := o }
  | .sarEbIb e _ => { segOvr := e.ovr }
  | .sarEvIb o e _ => { segOvr := e.ovr, osz := o }
  | .sarEb1 e => { segOvr := e.ovr }
  | .sarEv1 o e => { segOvr := e.ovr, osz := o }
  | .sarEbCl e => { segOvr := e.ovr }
  | .sarEvCl o e => { segOvr := e.ovr, osz := o }
  | .jmpEv e => { segOvr := e.ovr }
  | .jmpMp m => { segOvr := m.ovr }
  | .callEv e => { segOvr := e.ovr }
  | .callMp m => { segOvr := m.ovr }
  | .movsb ovr => { segOvr := ovr }
  | .repMovsb ovr => { segOvr := ovr, rep := some .z }
  | .movsw ovr => { segOvr := ovr }
  | .repMovsw ovr => { segOvr := ovr, rep := some .z }
  | .movsd ovr => { segOvr := ovr, osz := .o32 }
  | .repMovsd ovr => { segOvr := ovr, osz := .o32, rep := some .z }
  | .cmpsb ovr => { segOvr := ovr }
  | .repeCmpsb ovr => { segOvr := ovr, rep := some .z }
  | .repneCmpsb ovr => { segOvr := ovr, rep := some .nz }
  | .cmpsw ovr => { segOvr := ovr }
  | .repeCmpsw ovr => { segOvr := ovr, rep := some .z }
  | .repneCmpsw ovr => { segOvr := ovr, rep := some .nz }
  | .cmpsd ovr => { segOvr := ovr, osz := .o32 }
  | .repeCmpsd ovr => { segOvr := ovr, osz := .o32, rep := some .z }
  | .repneCmpsd ovr => { segOvr := ovr, osz := .o32, rep := some .nz }
  | .repStosb => { rep := some .z }
  | .repStosw => { rep := some .z }
  | .stosd => { osz := .o32 }
  | .repStosd => { osz := .o32, rep := some .z }
  | .lodsb ovr => { segOvr := ovr }
  | .repLodsb ovr => { segOvr := ovr, rep := some .z }
  | .lodsw ovr => { segOvr := ovr }
  | .repLodsw ovr => { segOvr := ovr, rep := some .z }
  | .lodsd ovr => { segOvr := ovr, osz := .o32 }
  | .repLodsd ovr => { segOvr := ovr, osz := .o32, rep := some .z }
  | .repeScasb => { rep := some .z }
  | .repneScasb => { rep := some .nz }
  | .repeScasw => { rep := some .z }
  | .repneScasw => { rep := some .nz }
  | .scasd => { osz := .o32 }
  | .repeScasd => { osz := .o32, rep := some .z }
  | .repneScasd => { osz := .o32, rep := some .nz }
  | .movEbGb e _ => { segOvr := e.ovr }
  | .movEvGv o e _ => { segOvr := e.ovr, osz := o }
  | .movGbEb _ e => { segOvr := e.ovr }
  | .movGvEv o _ e => { segOvr := e.ovr, osz := o }
  | .movRegIv o _ _ => { osz := o }
  | .movEbIb e _ => { segOvr := e.ovr }
  | .movEvIv o e _ => { segOvr := e.ovr, osz := o }
  | .movAlMoffs ovr _ => { segOvr := ovr }
  | .movEaxMoffs o ovr _ => { segOvr := ovr, osz := o }
  | .movMoffsAl ovr _ => { segOvr := ovr }
  | .movMoffsEax o ovr _ => { segOvr := ovr, osz := o }
  | .movEwSw e _ => { segOvr := e.ovr }
  | .movSwEw _ e => { segOvr := e.ovr }
  | .xchgEbGb e _ => { segOvr := e.ovr }
  | .xchgEvGv o e _ => { segOvr := e.ovr, osz := o }
  | .xchgEaxCx o => { osz := o }
  | .xchgEaxDx o => { osz := o }
  | .xchgEaxBx o => { osz := o }
  | .xchgEaxSp o => { osz := o }
  | .xchgEaxBp o => { osz := o }
  | .xchgEaxSi o => { osz := o }
  | .xchgEaxDi o => { osz := o }
  | .nop o => { osz := o }
  | .leaGvM o _ m => { segOvr := m.ovr, osz := o }
  | .lesGvMp o _ m => { segOvr := m.ovr, osz := o }
  | .ldsGvMp o _ m => { segOvr := m.ovr, osz := o }
  | .lssGvMp o _ m => { segOvr := m.ovr, osz := o }
  | .lfsGvMp o _ m => { segOvr := m.ovr, osz := o }
  | .lgsGvMp o _ m => { segOvr := m.ovr, osz := o }
  | .xlat ovr => { segOvr := ovr }
  | .pushEv e => { segOvr := e.ovr }
  | .popEv e => { segOvr := e.ovr }
  | .addAlIb _ | .orAlIb _ | .adcAlIb _ | .sbbAlIb _ | .andAlIb _ | .subAlIb _ | .xorAlIb _ | .cmpAlIb _
  | .testAlIb _ | .cbw | .cwd | .clc | .stc | .cmc | .cld | .std | .cli | .sti | .lahf | .sahf | .pushf | .popf
  | .jo _ | .jno _ | .jc _ | .jnc _ | .jz _ | .jnz _ | .jbe _ | .ja _ | .js _ | .jns _ | .jpe _ | .jpo _ | .jl _
  | .jge _ | .jle _ | .jg _ | .loopne _ | .loope _ | .loop _ | .jcxz _ | .jmpRel16 _ | .jmpRel8 _ | .jmpFar _ _
  | .callRel16 _ | .callFar _ _ | .ret | .retIw _ | .retf | .retfIw _ | .intIb _ | .int3 | .into | .iret | .hlt
  | .stosb | .stosw | .scasb | .scasw | .movRegIb _ _ | .pushReg _ | .pushEs | .pushCs | .pushSs | .pushDs
  | .popReg _ | .popEs | .popSs | .popDs | .segEs | .segCs | .segSs | .segDs | .segFs | .segGs | .opSize | .repE
  | .repNe => {}

/-- The override byte of a segment register (30_encoding.md R111). -/
def SReg.overrideByte : SReg → Byte
  | .es => 0x26 | .cs => 0x2E | .ss => 0x36 | .ds => 0x3E | .fs => 0x64 | .gs => 0x65

/-- The prefix bytes of a decoder state, in the order segment, operand size, repetition: of the orders that 30_encoding.md R112
admits the encoder writes this one, each prefix once. DESIGN CHOICE (log entry 25). -/
def Prefixes.bytes (p : Prefixes) : List Byte :=
  (match p.segOvr with
   | none => []
   | some r => [r.overrideByte]) ++
  (match p.osz with
   | .o16 => []
   | .o32 => [0x66]) ++
  (match p.rep with
   | none => []
   | some .z => [0xF3]
   | some .nz => [0xF2])

/-- The bytes of an instruction, prefixes first (30_encoding.md R110). -/
def encode (i : Instr) : List Byte := i.prefixes.bytes ++ encodeUnit i

/-! ## The host's words -/

/-- The bytes of a word of spec/opcode_table.json: byte k is bits 8k+7 : 8k, and 0 above `nbits`. -/
def tableBytes (nbits w : Nat) : List Byte :=
  (List.range maxLength).map fun k => if 8 * k < nbits then BitVec.ofNat 8 (w / 2 ^ (8 * k)) else 0#8

/-- The unit the decoder reads from a word of spec/opcode_table.json, no prefix before it. -/
def decodeTableWord (nbits w : Nat) : Option Instr :=
  match decodeUnit {} (tableBytes nbits w) with
  | .ok i _ => some i
  | _ => none

end Sys2Proof
end

