-- ==== Sys2Proof/Machine/Fetch.lean ====
section
/-! DEFINITION. Fetch and the step's frame around an instruction's meaning (30_encoding.md R130, R131; 20_memory.md R77;
10_state.md R38). The meaning is an argument, so that Step.lean only ties the knot. -/

namespace Sys2Proof.Machine

/-- The physical address of byte j of the current instruction: the fetch offset wraps (20_memory.md R77). -/
def fetchAddr (s : State) (j : Nat) : Nat := phys s.sreg.cs (s.ip + BitVec.ofNat 16 j)

/-- Up to n bytes of the current instruction from byte j on, ending before the first that lies outside memory. -/
def fetchBytes (s : State) : Nat → Nat → List Byte
  | _, 0 => []
  | j, n + 1 =>
    if s.params.memSize ≤ fetchAddr s j then []
    else Memory.read s.mem (fetchAddr s j) :: fetchBytes s (j + 1) n

/-- The bytes the decoder may still fetch: from byte k on, 15 in all (30_encoding.md R116). -/
def fetchWindow (s : State) : List Byte := fetchBytes s s.k (maxLength - s.k)

/-- The first n bytes of the current instruction, the datum of a decode fault (60_exceptions.md R601). -/
def bytesSoFar (s : State) (n : Nat) : List Byte := fetchBytes s 0 n

/-- The fetch of the byte after the first n fails: the 16th byte is UnhandledOpcode (30_encoding.md R116), another lies
outside memory (20_memory.md R74). -/
def fetchFault (s : State) (n : Nat) : FaultInfo :=
  if maxLength ≤ n then .unhandledOpcode (bytesSoFar s n) else .memoryFault (fetchAddr s n) 1 .fetch

/-- m more bytes of the instruction are fetched. -/
def State.fetched (s : State) (m : Nat) : State := { s with k := s.k + m }

/-- The start of an instruction: no bytes fetched, no prefix (30_encoding.md R130). -/
def State.beginInstr (s : State) : State := { s with pre := {}, k := 0 }

/-- Clear the decoder state after a meaning has answered (10_state.md R45). -/
def finish (r : Result) : Result :=
  match r with
  | .next t => .next t.endInstr
  | .fault f => .fault f
  | .refused q => .refused q

/-- Fetch, decode and run units: prefix bytes one after the other, then the instruction (30_encoding.md R130). The count
bounds the prefixes; when it is used up, 15 bytes are fetched. -/
def runUnits (run : Instr → State → Result) : Nat → State → Result
  | 0, s => raise (fetchFault s s.k) [] s
  | n + 1, s =>
    match decodeUnit s.pre (fetchWindow s) with
    | .ok i m =>
      match i.asPrefix with
      | none => finish (run i (s.fetched m))
      | some _ =>
        match run i (s.fetched m) with
        | .next t => runUnits run n t
        | r => r
    | .unhandled m => raise (.unhandledOpcode (bytesSoFar s (s.k + m))) [] s
    | .malformed m => raise (.malformedInstruction (bytesSoFar s (s.k + m))) [] s
    | .short m => raise (fetchFault s (s.k + m)) [] s

/-- One step: none from a faulted or halted core (10_state.md R46), else one instruction. -/
def stepWith (run : Instr → State → Result) (s : State) : Result :=
  if s.fault.isSome then .fault .faulted
  else if s.halted then .fault .halted
  else runUnits run maxLength s.beginInstr

/-- The state with bytes stored at the fetch addresses of the next instruction, byte j on. -/
def State.withBytes (s : State) : Nat → List Byte → State
  | _, [] => s
  | j, b :: bs => (s.setMem (Memory.write s.mem (fetchAddr s j) b)).withBytes (j + 1) bs

end Sys2Proof.Machine
end

