-- ==== Sys2Proof/Machine/Step.lean ====
section
/-! DEFINITION. One step (30_encoding.md R130), and the placing of an instruction where a step fetches it. -/

namespace Sys2Proof.Machine

/-- `step()` (60_exceptions.md R620): fetch, decode and execute one instruction at CS:IP. -/
def step (s : State) : Host.Outcome State Fault Refusal := stepWith exec s

/-- `s` with a word of spec/opcode_table.json stored where `step` fetches its next instruction: the host's load of a
program (70_reset_and_hazards.md R702, log entry 11). -/
def State.withFetchWord (s : State) (nbits w : Nat) : State := s.withBytes 0 (tableBytes nbits w)

end Sys2Proof.Machine
end

