-- ==== Sys2Proof/Machine/Assembler.lean ====
section
/-! DEFINITION. The assembler as far as the document gives it (30_encoding.md R180-R189): from a line of text, with the
spelling of numbers and width tags as arguments (00_scope.md R9), to the bytes it may emit (log entries 17, 21, 24-28).
Nothing here takes part in a step. -/

namespace Sys2Proof.Machine

/-- The errors of assembly (30_encoding.md R189), which never reach the core. R189 gives a cause for the first alone; that every
failure of this assembler is the first, and the other four are never raised, is DESIGN CHOICE (log entry 28). -/
inductive AsmError where
  | malformedInstruction | invalidArgument | invalidRegisterUsage | numericValueExpected | invalidNumberOfParameters
deriving DecidableEq, Repr

/-- A token between brackets (30_encoding.md R182): a 16-bit register, a number, anything else. -/
inductive AsmToken where
  | reg (r : Reg)
  | num (v : Int)
  | other
deriving DecidableEq, Repr

/-- An operand after its literals are read (30_encoding.md R180). `tag` is a memory operand's width in bits if the text gives
one (`ASM_WIDTH_TAG`, open); a string stands for its characters' codes. -/
inductive AsmOperand where
  | reg8 (r : Reg)
  | reg16 (r : Reg)
  | reg32 (r : Reg)
  | sreg (r : SReg)
  | num (v : Int)
  | text (chars : List Byte)
  | mem (tag : Option Nat) (tokens : List AsmToken)
  | far (sel off : Word)
deriving DecidableEq, Repr

/-- A line: a repetition written before the mnemonic, the mnemonic, the operands, destination first
(30_encoding.md R180, R181). -/
structure AsmLine where
  rep : Option String
  mnemonic : String
  operands : List AsmOperand
deriving DecidableEq, Repr

/-! ## The addressing-mode resolver (30_encoding.md R182-R184) -/

/-- The tokens of a bracketed expression by class: base {BX, BP}, index {SI, DI}, number. -/
structure AsmParts where
  base : Option Reg := none
  index : Option Reg := none
  num : Option Int := none
deriving DecidableEq, Repr

/-- Classify one token; a second one of its class fails, and so does an unrecognised one (30_encoding.md R182). -/
def classify (a : AsmParts) (t : AsmToken) : Except AsmError AsmParts :=
  match t with
  | .reg .bx => if a.base = none then .ok { a with base := some .bx } else .error .malformedInstruction
  | .reg .bp => if a.base = none then .ok { a with base := some .bp } else .error .malformedInstruction
  | .reg .si => if a.index = none then .ok { a with index := some .si } else .error .malformedInstruction
  | .reg .di => if a.index = none then .ok { a with index := some .di } else .error .malformedInstruction
  | .reg _ => .error .malformedInstruction
  | .num v => if a.num = none then .ok { a with num := some v } else .error .malformedInstruction
  | .other => .error .malformedInstruction

/-- Classify all tokens, left to right. -/
def classifyAll : AsmParts → List AsmToken → Except AsmError AsmParts
  | a, [] => .ok a
  | a, t :: ts =>
    match classify a t with
    | .error e => .error e
    | .ok b => classifyAll b ts

/-- The register keys of the resolver table; BP alone has none (30_encoding.md R183). -/
def registerKey (base index : Option Reg) : Option EABase :=
  match base, index with
  | some .bx, some .si => some .bxSi
  | some .bx, some .di => some .bxDi
  | some .bp, some .si => some .bpSi
  | some .bp, some .di => some .bpDi
  | none, some .si => some .si
  | none, some .di => some .di
  | some .bx, none => some .bx
  | _, _ => none

/-- `resolve(tokens)`: a displacement below 0x100 takes the 8-bit form, a plain number the 16-bit one
(30_encoding.md R182-R184). -/
def resolve (tokens : List AsmToken) : Except AsmError MemForm :=
  match classifyAll {} tokens with
  | .error e => .error e
  | .ok a =>
    match a.num with
    | none =>
      match registerKey a.base a.index with
      | some b => .ok (.base b)
      | none => .error .malformedInstruction
    | some v =>
      if v < 0 ∨ 0x10000 ≤ v then .error .malformedInstruction
      else if a.base = none ∧ a.index = none then .ok (.direct (BitVec.ofInt 16 v))
      else
        match registerKey a.base a.index with
        | none => .error .malformedInstruction
        | some b => if v < 0x100 then .ok (.disp8 b (BitVec.ofInt 8 v)) else .ok (.disp16 b (BitVec.ofInt 16 v))

/-! ## Operand shapes (30_encoding.md R127) -/

/-- A number fits in n bits, signed or unsigned (log entry 17). -/
def immediateFits (n : Nat) (v : Int) : Bool := decide (-(2 : Int) ^ (n - 1) ≤ v ∧ v < (2 : Int) ^ n)

/-- The operand as `G` of width w. -/
def asG (w : Width) (a : AsmOperand) : Option Reg :=
  match w, a with
  | .w8, .reg8 r => some r
  | .w16, .reg16 r => some r
  | .w32, .reg32 r => some r
  | _, _ => none

/-- The operand as `M`: memory, whatever its tag, since nothing of it is accessed (30_encoding.md R127; 47_data_transfer.md
R497; log entry 17). -/
def asM (a : AsmOperand) : Option MemRef :=
  match a with
  | .mem _ ts => (resolve ts).toOption.map (⟨none, ·⟩)
  | _ => none

/-- The operand as memory of n bits; memory without a tag fits every width (log entry 17). -/
def asSized (n : Nat) (a : AsmOperand) : Option MemRef :=
  match a with
  | .mem tag _ => if tag = none ∨ tag = some n then asM a else none
  | _ => none

/-- The operand as `Mp`: an offset of the width of `o` and a segment word (30_encoding.md R127; 47_data_transfer.md R506), so 32
or 48 bits. -/
def asMp (o : OSize) (a : AsmOperand) : Option MemRef := asSized (o.width.bits + 16) a

/-- The operand as `E` of width w: a register, or memory. -/
def asE (w : Width) (a : AsmOperand) : Option RM := ((asG w a).map .reg).or ((asSized w.bits a).map .mem)

/-- The operand as `moffs`: a plain displacement. -/
def asMoffs (w : Width) (a : AsmOperand) : Option Word :=
  match asE w a with
  | some (.mem m) => match m.form with | .direct d => some d | _ => none
  | _ => none

/-- The operand as a segment register. -/
def asSreg (a : AsmOperand) : Option SReg :=
  match a with
  | .sreg r => some r
  | _ => none

/-- The operand as an immediate of n bits. -/
def asImm (n : Nat) (a : AsmOperand) : Option (BitVec n) :=
  match a with
  | .num v => if immediateFits n v then some (BitVec.ofInt n v) else none
  | _ => none

/-- The operand as `Iv`. -/
def asIv (o : OSize) (a : AsmOperand) : Option Dword := (asImm o.width.bits a).map (·.setWidth 32)

/-- The operand as `sIb`: an immediate of the operand size that is the sign extension of its low byte. -/
def asSIb (o : OSize) (a : AsmOperand) : Option Byte :=
  match asImm o.width.bits a with
  | some v => if (v.setWidth 8).signExtend o.width.bits = v then some (v.setWidth 8) else none
  | none => none

/-- Whether the operand is this register of width w (`AL`, `eAX`, `CL`). -/
def isReg (w : Width) (r : Reg) (a : AsmOperand) : Option Unit := if asG w a = some r then some () else none

/-- One instruction from one shape, or none. -/
def shape1 {α : Type} (x : Option α) (mk : α → Instr) : List Instr := (x.map mk).toList

/-- One instruction from two shapes, or none. -/
def shape2 {α β : Type} (x : Option α) (y : Option β) (mk : α → β → Instr) : List Instr :=
  match x, y with
  | some a, some b => [mk a b]
  | _, _ => []

/-- The operand sizes of a "v" shape. -/
def vSizes : List OSize := [.o16, .o32]

/-! ## The rows, family by family (30_encoding.md R185) -/

/-- The nine shapes of a binary ALU mnemonic (40_alu_binary.md R216-R223). -/
structure AluRow where
  name : String
  ebGb : RM → Reg → Instr
  evGv : OSize → RM → Reg → Instr
  gbEb : Reg → RM → Instr
  gvEv : OSize → Reg → RM → Instr
  alIb : Byte → Instr
  eaxIv : OSize → Dword → Instr
  ebIb : RM → Byte → Instr
  evIv : OSize → RM → Dword → Instr
  evSIb : OSize → RM → Byte → Instr

/-- The binary ALU mnemonics. -/
def aluRows : List AluRow :=
  [⟨"ADD", .addEbGb, .addEvGv, .addGbEb, .addGvEv, .addAlIb, .addEaxIv, .addEbIb, .addEvIv, .addEvSIb⟩,
   ⟨"OR", .orEbGb, .orEvGv, .orGbEb, .orGvEv, .orAlIb, .orEaxIv, .orEbIb, .orEvIv, .orEvSIb⟩,
   ⟨"ADC", .adcEbGb, .adcEvGv, .adcGbEb, .adcGvEv, .adcAlIb, .adcEaxIv, .adcEbIb, .adcEvIv, .adcEvSIb⟩,
   ⟨"SBB", .sbbEbGb, .sbbEvGv, .sbbGbEb, .sbbGvEv, .sbbAlIb, .sbbEaxIv, .sbbEbIb, .sbbEvIv, .sbbEvSIb⟩,
   ⟨"AND", .andEbGb, .andEvGv, .andGbEb, .andGvEv, .andAlIb, .andEaxIv, .andEbIb, .andEvIv, .andEvSIb⟩,
   ⟨"SUB", .subEbGb, .subEvGv, .subGbEb, .subGvEv, .subAlIb, .subEaxIv, .subEbIb, .subEvIv, .subEvSIb⟩,
   ⟨"XOR", .xorEbGb, .xorEvGv, .xorGbEb, .xorGvEv, .xorAlIb, .xorEaxIv, .xorEbIb, .xorEvIv, .xorEvSIb⟩,
   ⟨"CMP", .cmpEbGb, .cmpEvGv, .cmpGbEb, .cmpGvEv, .cmpAlIb, .cmpEaxIv, .cmpEbIb, .cmpEvIv, .cmpEvSIb⟩]

/-- The instructions of a binary ALU mnemonic with two operands. -/
def AluRow.forms (r : AluRow) (a b : AsmOperand) : List Instr :=
  shape2 (asE .w8 a) (asG .w8 b) r.ebGb ++ shape2 (asG .w8 a) (asE .w8 b) r.gbEb ++
    shape2 (isReg .w8 .ax a) (asImm 8 b) (fun _ => r.alIb) ++ shape2 (asE .w8 a) (asImm 8 b) r.ebIb ++
    vSizes.flatMap fun o =>
      shape2 (asE o.width a) (asG o.width b) (r.evGv o) ++ shape2 (asG o.width a) (asE o.width b) (r.gvEv o) ++
        shape2 (isReg o.width .ax a) (asIv o b) (fun _ => r.eaxIv o) ++ shape2 (asE o.width a) (asIv o b) (r.evIv o) ++
        shape2 (asE o.width a) (asSIb o b) (r.evSIb o)

/-- The instructions of TEST (40_alu_binary.md R224). -/
def testForms (a b : AsmOperand) : List Instr :=
  shape2 (asE .w8 a) (asG .w8 b) .testEbGb ++ shape2 (isReg .w8 .ax a) (asImm 8 b) (fun _ => .testAlIb) ++
    shape2 (asE .w8 a) (asImm 8 b) .testEbIb ++
    vSizes.flatMap fun o =>
      shape2 (asE o.width a) (asG o.width b) (.testEvGv o) ++
        shape2 (isReg o.width .ax a) (asIv o b) (fun _ => .testEaxIv o) ++ shape2 (asE o.width a) (asIv o b) (.testEvIv o)

/-- The instructions of MOV (47_data_transfer.md R490-R494). -/
def movForms (a b : AsmOperand) : List Instr :=
  shape2 (asE .w8 a) (asG .w8 b) .movEbGb ++ shape2 (asG .w8 a) (asE .w8 b) .movGbEb ++
    shape2 (asG .w8 a) (asImm 8 b) .movRegIb ++ shape2 (asE .w8 a) (asImm 8 b) .movEbIb ++
    shape2 (isReg .w8 .ax a) (asMoffs .w8 b) (fun _ => .movAlMoffs none) ++
    shape2 (asMoffs .w8 a) (isReg .w8 .ax b) (fun d _ => .movMoffsAl none d) ++
    shape2 (asE .w16 a) (asSreg b) .movEwSw ++
    shape2 (if asSreg a = some .cs then none else asSreg a) (asE .w16 b) .movSwEw ++
    vSizes.flatMap fun o =>
      shape2 (asE o.width a) (asG o.width b) (.movEvGv o) ++ shape2 (asG o.width a) (asE o.width b) (.movGvEv o) ++
        shape2 (asG o.width a) (asIv o b) (.movRegIv o) ++ shape2 (asE o.width a) (asIv o b) (.movEvIv o) ++
        shape2 (isReg o.width .ax a) (asMoffs o.width b) (fun _ => .movEaxMoffs o none) ++
        shape2 (asMoffs o.width a) (isReg o.width .ax b) (fun d _ => .movMoffsEax o none d)

/-- XCHG of eAX with the register of opcodes 91-97 (47_data_transfer.md R495). eAX with itself is the NOP row, 90 (R496;
30_encoding.md R181); that the text `XCHG AX, AX` may be emitted so, beside 87 C0, is DESIGN CHOICE (log entry 26). -/
def xchgEax (o : OSize) : Reg → List Instr
  | .ax => [.nop o]
  | .cx => [.xchgEaxCx o]
  | .dx => [.xchgEaxDx o]
  | .bx => [.xchgEaxBx o]
  | .sp => [.xchgEaxSp o]
  | .bp => [.xchgEaxBp o]
  | .si => [.xchgEaxSi o]
  | .di => [.xchgEaxDi o]

/-- The rows of XCHG with the operands in the order of the table (47_data_transfer.md R495). -/
def xchgRows (a b : AsmOperand) : List Instr :=
  shape2 (asE .w8 a) (asG .w8 b) .xchgEbGb ++
    vSizes.flatMap fun o =>
      shape2 (asE o.width a) (asG o.width b) (.xchgEvGv o) ++
        (match isReg o.width .ax a, asG o.width b with
         | some _, some r => xchgEax o r
         | _, _ => [])

/-- The instructions of XCHG. The operands may be written either way round, as in R495's own `XCHG AL, [BX]` (86 07); that this
holds of every row is DESIGN CHOICE (log entry 26). -/
def xchgForms (a b : AsmOperand) : List Instr := xchgRows a b ++ if a = b then [] else xchgRows b a

/-- Mnemonics with one `E` operand in a byte and a "v" shape (41_alu_unary.md, 42_muldiv.md). INC and DEC of a 16-bit
register are the one-byte rows alone (30_encoding.md R186). -/
def unaryRows : List (String × (RM → Instr) × (OSize → RM → Instr)) :=
  [("INC", .incEb, .incEv), ("DEC", .decEb, .decEv), ("NOT", .notEb, .notEv), ("NEG", .negEb, .negEv),
   ("MUL", .mulEb, .mulEv), ("IMUL", .imulEb, .imulEv), ("DIV", .divEb, .divEv), ("IDIV", .idivEb, .idivEv)]

/-- The instructions of such a mnemonic. -/
def unaryForms (eb : RM → Instr) (ev : OSize → RM → Instr) (a : AsmOperand) : List Instr :=
  shape1 (asE .w8 a) eb ++ vSizes.flatMap fun o => shape1 (asE o.width a) (ev o)

/-- A shift or rotate mnemonic (43_shift_rotate.md R331-R337). -/
structure ShiftRow where
  name : String
  ebIb : RM → Byte → Instr
  evIb : OSize → RM → Byte → Instr
  eb1 : RM → Instr
  ev1 : OSize → RM → Instr
  ebCl : RM → Instr
  evCl : OSize → RM → Instr

/-- The shift and rotate mnemonics. -/
def shiftRows : List ShiftRow :=
  [⟨"ROL", .rolEbIb, .rolEvIb, .rolEb1, .rolEv1, .rolEbCl, .rolEvCl⟩,
   ⟨"ROR", .rorEbIb, .rorEvIb, .rorEb1, .rorEv1, .rorEbCl, .rorEvCl⟩,
   ⟨"RCL", .rclEbIb, .rclEvIb, .rclEb1, .rclEv1, .rclEbCl, .rclEvCl⟩,
   ⟨"RCR", .rcrEbIb, .rcrEvIb, .rcrEb1, .rcrEv1, .rcrEbCl, .rcrEvCl⟩,
   ⟨"SHL", .shlEbIb, .shlEvIb, .shlEb1, .shlEv1, .shlEbCl, .shlEvCl⟩,
   ⟨"SHR", .shrEbIb, .shrEvIb, .shrEb1, .shrEv1, .shrEbCl, .shrEvCl⟩,
   ⟨"SAR", .sarEbIb, .sarEvIb, .sarEb1, .sarEv1, .sarEbCl, .sarEvCl⟩]

/-- The instructions of a shift or rotate mnemonic. -/
def ShiftRow.forms (r : ShiftRow) (a b : AsmOperand) : List Instr :=
  let one : Option Unit := if b = .num 1 then some () else none
  shape2 (asE .w8 a) one (fun e _ => r.eb1 e) ++ shape2 (asE .w8 a) (isReg .w8 .cx b) (fun e _ => r.ebCl e) ++
    shape2 (asE .w8 a) (asImm 8 b) r.ebIb ++
    vSizes.flatMap fun o =>
      shape2 (asE o.width a) one (fun e _ => r.ev1 o e) ++
        shape2 (asE o.width a) (isReg .w8 .cx b) (fun e _ => r.evCl o e) ++ shape2 (asE o.width a) (asImm 8 b) (r.evIb o)

/-- The far loads (47_data_transfer.md R500-R504). -/
def farLoadRows : List (String × (OSize → Reg → MemRef → Instr)) :=
  [("LES", .lesGvMp), ("LDS", .ldsGvMp), ("LSS", .lssGvMp), ("LFS", .lfsGvMp), ("LGS", .lgsGvMp)]

/-- The instructions of PUSH (47_data_transfer.md R521-R523). -/
def pushForms (a : AsmOperand) : List Instr :=
  shape1 (asG .w16 a) .pushReg ++ shape1 (asE .w16 a) .pushEv ++
    (match asSreg a with
     | some .es => [.pushEs]
     | some .cs => [.pushCs]
     | some .ss => [.pushSs]
     | some .ds => [.pushDs]
     | _ => [])

/-- The instructions of POP (47_data_transfer.md R524-R526). -/
def popForms (a : AsmOperand) : List Instr :=
  shape1 (asG .w16 a) .popReg ++ shape1 (asE .w16 a) .popEv ++
    (match asSreg a with
     | some .es => [.popEs]
     | some .ss => [.popSs]
     | some .ds => [.popDs]
     | _ => [])

/-- The mnemonics with a `rel8` target (45_control_transfer.md R403-R423). -/
def rel8Rows : List (String × (Byte → Instr)) :=
  [("JO", .jo), ("JNO", .jno), ("JC", .jc), ("JNC", .jnc), ("JZ", .jz), ("JNZ", .jnz), ("JBE", .jbe), ("JA", .ja),
   ("JS", .js), ("JNS", .jns), ("JPE", .jpe), ("JPO", .jpo), ("JL", .jl), ("JGE", .jge), ("JLE", .jle), ("JG", .jg),
   ("JCXZ", .jcxz), ("LOOP", .loop), ("LOOPE", .loope), ("LOOPNE", .loopne)]

/-- The displacement `target - IP_next` modulo 2^16 for an instruction of n bytes at `here`
(92_eei_decisions.md D50). -/
def displacement (here : Word) (n : Nat) (target : Word) : Word := target - (here + BitVec.ofNat 16 n)

/-- The `rel8` displacement, if it fits in -128..127 (92_eei_decisions.md D50). -/
def shortDisplacement (here target : Word) : Option Byte :=
  let d := displacement here 2 target
  if (d.setWidth 8).signExtend 16 = d then some (d.setWidth 8) else none

/-- A near target operand: an offset in CS (45_control_transfer.md R400, 92_eei_decisions.md D50). That a number outside
0..0xFFFF, a negative one too, is no offset and so MalformedInstruction is DESIGN CHOICE (log entry 27). -/
def asTarget (a : AsmOperand) : Option Word :=
  match a with
  | .num v => if 0 ≤ v ∧ v < 0x10000 then some (BitVec.ofInt 16 v) else none
  | _ => none

/-- The instructions of JMP; a near target takes the short form where it reaches (92_eei_decisions.md D50). -/
def jmpForms (here : Word) (a : AsmOperand) : List Instr :=
  match a with
  | .far sel off => [.jmpFar sel off]
  | _ =>
    match asTarget a with
    | some t =>
      match shortDisplacement here t with
      | some d => [.jmpRel8 d]
      | none => [.jmpRel16 (displacement here 3 t)]
    | none => shape1 (asE .w16 a) .jmpEv ++ shape1 (asMp .o16 a) .jmpMp

/-- The instructions of CALL (92_eei_decisions.md D50). -/
def callForms (here : Word) (a : AsmOperand) : List Instr :=
  match a with
  | .far sel off => [.callFar sel off]
  | _ =>
    match asTarget a with
    | some t => [.callRel16 (displacement here 3 t)]
    | none => shape1 (asE .w16 a) .callEv ++ shape1 (asMp .o16 a) .callMp

/-- Mnemonics without operands and MOVS, with the repetition written before them (30_encoding.md R181, 46_string.md R471). -/
def plainRowsA : List (Option String × String × Instr) :=
  [(none, "CBW", .cbw), (none, "CWDE", .cwde), (none, "CWD", .cwd), (none, "CDQ", .cdq), (none, "CLC", .clc),
   (none, "STC", .stc), (none, "CMC", .cmc), (none, "CLD", .cld), (none, "STD", .std), (none, "CLI", .cli),
   (none, "STI", .sti), (none, "LAHF", .lahf), (none, "SAHF", .sahf), (none, "PUSHF", .pushf), (none, "POPF", .popf),
   (none, "RET", .ret), (none, "RETF", .retf), (none, "INT3", .int3), (none, "INTO", .into), (none, "IRET", .iret),
   (none, "HLT", .hlt), (none, "NOP", .nop .o16), (none, "XLAT", .xlat none), (none, "MOVSB", .movsb none),
   (some "REP", "MOVSB", .repMovsb none), (none, "MOVSW", .movsw none), (some "REP", "MOVSW", .repMovsw none),
   (none, "MOVSD", .movsd none), (some "REP", "MOVSD", .repMovsd none)]

/-- The other string mnemonics, with the repetition written before them. -/
def plainRowsB : List (Option String × String × Instr) :=
  [(none, "CMPSB", .cmpsb none), (some "REPZ", "CMPSB", .repeCmpsb none), (some "REPNZ", "CMPSB", .repneCmpsb none),
   (none, "CMPSW", .cmpsw none), (some "REPZ", "CMPSW", .repeCmpsw none), (some "REPNZ", "CMPSW", .repneCmpsw none),
   (none, "CMPSD", .cmpsd none), (some "REPZ", "CMPSD", .repeCmpsd none), (some "REPNZ", "CMPSD", .repneCmpsd none),
   (none, "STOSB", .stosb), (some "REP", "STOSB", .repStosb), (none, "STOSW", .stosw),
   (some "REP", "STOSW", .repStosw), (none, "STOSD", .stosd), (some "REP", "STOSD", .repStosd),
   (none, "LODSB", .lodsb none), (some "REP", "LODSB", .repLodsb none), (none, "LODSW", .lodsw none),
   (some "REP", "LODSW", .repLodsw none), (none, "LODSD", .lodsd none), (some "REP", "LODSD", .repLodsd none),
   (none, "SCASB", .scasb), (some "REPZ", "SCASB", .repeScasb), (some "REPNZ", "SCASB", .repneScasb),
   (none, "SCASW", .scasw), (some "REPZ", "SCASW", .repeScasw), (some "REPNZ", "SCASW", .repneScasw),
   (none, "SCASD", .scasd), (some "REPZ", "SCASD", .repeScasd), (some "REPNZ", "SCASD", .repneScasd)]

/-- The mnemonics without operands. -/
def plainRows : List (Option String × String × Instr) := plainRowsA ++ plainRowsB

/-- The alias table (30_encoding.md R181; 45_control_transfer.md R422, R423). -/
def mnemonicAliases : List (String × String) :=
  [("JE", "JZ"), ("JNE", "JNZ"), ("SAL", "SHL"), ("JB", "JC"), ("JNAE", "JC"), ("JAE", "JNC"), ("JNB", "JNC"),
   ("JNA", "JBE"), ("JNBE", "JA"), ("JP", "JPE"), ("JNP", "JPO"), ("JNGE", "JL"), ("JNL", "JGE"), ("JNG", "JLE"),
   ("JNLE", "JG"), ("LOOPZ", "LOOPE"), ("LOOPNZ", "LOOPNE"), ("REPE", "REPZ"), ("REPNE", "REPNZ")]

/-- A mnemonic or repetition in its first spelling. -/
def canonicalMnemonic (m : String) : String := ((mnemonicAliases.find? fun x => x.1 == m).map (·.2)).getD m

/-- The instructions of a line with one operand. -/
def oneOperand (here : Word) (m : String) (a : AsmOperand) : List Instr :=
  ((unaryRows.filter fun r => r.1 == m).flatMap fun r => unaryForms r.2.1 r.2.2 a) ++
    ((rel8Rows.filter fun r => r.1 == m).flatMap fun r =>
      match asTarget a with
      | some t => shape1 (shortDisplacement here t) r.2
      | none => []) ++
    (if m = "INC" then shape1 (asG .w32 a) (.incReg .o32) else []) ++
    (if m = "DEC" then shape1 (asG .w32 a) (.decReg .o32) else []) ++
    (if m = "PUSH" then pushForms a else []) ++ (if m = "POP" then popForms a else []) ++
    (if m = "JMP" then jmpForms here a else []) ++ (if m = "CALL" then callForms here a else []) ++
    (if m = "INT" then shape1 (asImm 8 a) .intIb else []) ++ (if m = "RET" then shape1 (asImm 16 a) .retIw else []) ++
    (if m = "RETF" then shape1 (asImm 16 a) .retfIw else [])

/-- The instructions of a line with two operands. -/
def twoOperands (m : String) (a b : AsmOperand) : List Instr :=
  ((aluRows.filter fun r => r.name == m).flatMap fun r => r.forms a b) ++
    ((shiftRows.filter fun r => r.name == m).flatMap fun r => r.forms a b) ++
    ((farLoadRows.filter fun r => r.1 == m).flatMap fun r =>
      vSizes.flatMap fun o => shape2 (asG o.width a) (asMp o b) (r.2 o)) ++
    (if m = "LEA" then vSizes.flatMap fun o => shape2 (asG o.width a) (asM b) (.leaGvM o) else []) ++
    (if m = "TEST" then testForms a b else []) ++ (if m = "MOV" then movForms a b else []) ++
    (if m = "XCHG" then xchgForms a b else [])

/-- The INC/DEC encoder: `0x40 | code`, `0x48 | code` for a 16-bit register (30_encoding.md R186). -/
def incDecReg (m : String) (a : AsmOperand) : Option Instr :=
  match a with
  | .reg16 r => if m = "INC" then some (.incReg .o16 r) else if m = "DEC" then some (.decReg .o16 r) else none
  | _ => none

/-- Every instruction whose mnemonic and operand shape a line has (30_encoding.md R185). The order of the source's
encoder chain is not given, so all of them are kept (93_implementation_defined.md U28, log entry 17). -/
def lineForms (here : Word) (l : AsmLine) : List Instr :=
  let m := canonicalMnemonic l.mnemonic
  match l.operands with
  | [] =>
    (plainRows.filter fun r => r.1 == l.rep.map canonicalMnemonic && r.2.1 == m).map (·.2.2)
  | [a] =>
    if l.rep ≠ none then []
    else
      match incDecReg m a with
      | some i => [i]
      | none => oneOperand here m a
  | [a, b] => if l.rep = none then twoOperands m a b else []
  | _ => []

/-- The bytes of `DB` operands: a string's character codes, a number's byte (30_encoding.md R188). DESIGN CHOICE (log entry
21): a numeric operand is 0..0xFF; a number outside, negative ones too, and an operand of another kind are
MalformedInstruction. -/
def dataBytes : List AsmOperand → Except AsmError (List Byte)
  | [] => .ok []
  | .text cs :: rest => (dataBytes rest).map (cs ++ ·)
  | .num v :: rest =>
    if 0 ≤ v ∧ v < 0x100 then (dataBytes rest).map (BitVec.ofInt 8 v :: ·) else .error .malformedInstruction
  | _ :: _ => .error .malformedInstruction

/-- A byte put at each place of a list. -/
def insertions (b : Byte) : List Byte → List (List Byte)
  | [] => [[b]]
  | c :: cs => (b :: c :: cs) :: (insertions b cs).map (c :: ·)

/-- The orders of a list. -/
def orders : List Byte → List (List Byte)
  | [] => [[]]
  | b :: bs => (orders bs).flatMap (insertions b)

/-- The encodings of an instruction: its prefixes in every order (30_encoding.md R110, R112), each once. DESIGN CHOICE
(log entry 25). -/
def encodings (i : Instr) : List (List Byte) := (orders i.prefixes.bytes).map (· ++ encodeUnit i)

/-- Assemble a line at offset `here` of CS: every output the encoder chain may emit, or MalformedInstruction if no
encoder matches (30_encoding.md R185, R188, R189). DESIGN CHOICE (log entry 21): `DB` without an operand and `DB` after a
repetition are MalformedInstruction. -/
def assemble (here : Word) (l : AsmLine) : Except AsmError (List (List Byte)) :=
  if l.mnemonic = "DB" then
    if l.rep ≠ none ∨ l.operands = [] then .error .malformedInstruction else (dataBytes l.operands).map ([·])
  else
    match lineForms here l with
    | [] => .error .malformedInstruction
    | forms => .ok (forms.flatMap encodings)

/-! ## A line of text (30_encoding.md R180, R181). What the rules leave open of its layout is log entry 24. -/

/-- Blanks: space and tab. -/
def isBlank (c : Char) : Bool := c == ' ' || c == '\t'

/-- Without the blanks at both ends. -/
def trimBlanks (cs : List Char) : List Char := ((cs.dropWhile isBlank).reverse.dropWhile isBlank).reverse

/-- The double quote. -/
def quote : Char := Char.ofNat 0x22

/-- The pieces between the separators that stand outside quotes. -/
def splitOutside (sep : Char) (quoted : Bool) : List Char → List (List Char)
  | [] => [[]]
  | c :: cs =>
    if c == sep && !quoted then [] :: splitOutside sep quoted cs
    else
      match splitOutside sep (if c == quote then !quoted else quoted) cs with
      | [] => [[c]]
      | x :: xs => (c :: x) :: xs

/-- The value of a name in a table. -/
def lookupName {α : Type} (t : List (String × α)) (cs : List Char) : Option α :=
  (t.find? fun x => x.1 == String.ofList cs).map (·.2)

/-- The 16-bit register names (10_state.md R31). -/
def names16 : List (String × Reg) :=
  [("AX", .ax), ("CX", .cx), ("DX", .dx), ("BX", .bx), ("SP", .sp), ("BP", .bp), ("SI", .si), ("DI", .di)]

/-- The 8-bit register names, by code (10_state.md R31). -/
def names8 : List (String × Reg) :=
  [("AL", .ax), ("CL", .cx), ("DL", .dx), ("BL", .bx), ("AH", .sp), ("CH", .bp), ("DH", .si), ("BH", .di)]

/-- The 32-bit register names (10_state.md R30). -/
def names32 : List (String × Reg) :=
  [("EAX", .ax), ("ECX", .cx), ("EDX", .dx), ("EBX", .bx), ("ESP", .sp), ("EBP", .bp), ("ESI", .si), ("EDI", .di)]

/-- The segment register names (10_state.md R36). -/
def namesS : List (String × SReg) := [("ES", .es), ("CS", .cs), ("SS", .ss), ("DS", .ds), ("FS", .fs), ("GS", .gs)]

/-- A register operand by its name. -/
def registerOperand (cs : List Char) : Option AsmOperand :=
  ((lookupName names8 cs).map .reg8).or <| ((lookupName names16 cs).map .reg16).or <|
    ((lookupName names32 cs).map .reg32).or ((lookupName namesS cs).map .sreg)

/-- A token between brackets (30_encoding.md R182). -/
def bracketToken (syn : AsmSyntax) (cs : List Char) : AsmToken :=
  let cs := trimBlanks cs
  match lookupName names16 cs with
  | some r => .reg r
  | none =>
    match syn.number cs with
    | some v => .num v
    | none => .other

/-- A bracketed expression: the tokens between `[` and a closing `]`, joined by `+`. -/
def bracketTokens (syn : AsmSyntax) (inner : List Char) : Option (List AsmToken) :=
  match inner.reverse with
  | ']' :: rest => some ((splitOutside '+' false rest.reverse).map (bracketToken syn))
  | _ => none

/-- A bracketed operand, its width tag before it (30_encoding.md R180). -/
def bracketOperand (syn : AsmSyntax) (before inner : List Char) : Option AsmOperand :=
  match bracketTokens syn inner with
  | none => none
  | some ts =>
    match trimBlanks before with
    | [] => some (.mem none ts)
    | tag => (syn.widthTag tag).map fun w => .mem (some w) ts

/-- The codes of the characters of a string, each one byte. -/
def characterCodes : List Char → Option (List Byte)
  | [] => some []
  | c :: cs => if c.toNat < 0x100 then (characterCodes cs).map (BitVec.ofNat 8 c.toNat :: ·) else none

/-- A quoted string, after its opening quote. -/
def stringOperand (rest : List Char) : Option AsmOperand :=
  match rest.reverse with
  | c :: body => if c == quote && !body.contains quote then (characterCodes body.reverse).map .text else none
  | [] => none

/-- A far pointer `selector:offset` (45_control_transfer.md R427, R432). -/
def farOperand (syn : AsmSyntax) (cs : List Char) : Option AsmOperand :=
  match splitOutside ':' false cs with
  | [a, b] =>
    match syn.number (trimBlanks a), syn.number (trimBlanks b) with
    | some sel, some off =>
      if 0 ≤ sel ∧ sel < 0x10000 ∧ 0 ≤ off ∧ off < 0x10000 then some (.far (BitVec.ofInt 16 sel) (BitVec.ofInt 16 off))
      else none
    | _, _ => none
  | _ => none

/-- An operand: a quoted string, a bracketed expression, a register name, a number, a far pointer (30_encoding.md R180). -/
def parseOperand (syn : AsmSyntax) (text : List Char) : Option AsmOperand :=
  let cs := trimBlanks text
  if cs.head? == some quote then stringOperand cs.tail
  else if cs.contains '[' then bracketOperand syn (cs.takeWhile (· != '[')) (cs.dropWhile (· != '[')).tail
  else (registerOperand cs).or (((syn.number cs).map .num).or (farOperand syn cs))

/-- All operands, or none if one is no operand. -/
def parseOperands (syn : AsmSyntax) : List (List Char) → Option (List AsmOperand)
  | [] => some []
  | x :: xs =>
    match parseOperand syn x, parseOperands syn xs with
    | some a, some as => some (a :: as)
    | _, _ => none

/-- The first word of a text, and the text after it. -/
def firstWord (cs : List Char) : List Char × List Char :=
  ((trimBlanks cs).takeWhile fun c => !isBlank c, trimBlanks ((trimBlanks cs).dropWhile fun c => !isBlank c))

/-- The segment prefix a word spells: `ES:` and the like (46_string.md R472, log entry 24). -/
def segmentWord (cs : List Char) : Option SReg :=
  match cs.reverse with
  | ':' :: name => lookupName namesS name.reverse
  | _ => none

/-- `MNEMONIC [operand[,operand]...]`, before the mnemonic a repetition (30_encoding.md R180, R181) and a segment prefix
(46_string.md R472) if there are any. -/
def parseLine (syn : AsmSyntax) (text : List Char) : Option (Option SReg × AsmLine) :=
  let w := firstWord text
  let repeats := ["REP", "REPZ", "REPNZ"].contains (canonicalMnemonic (String.ofList w.1))
  let v := if repeats then firstWord w.2 else w
  let seg := segmentWord v.1
  let m := if seg.isSome then firstWord v.2 else v
  let operands := if m.2 = [] then some [] else parseOperands syn (splitOutside ',' false m.2)
  operands.map fun ops => (seg, ⟨if repeats then some (String.ofList w.1) else none, String.ofList m.1, ops⟩)

/-- The outputs with a segment prefix, at each place among the instruction's other prefixes (30_encoding.md R112, 46_string.md
R472; log entry 25). -/
def withSegment (r : SReg) (bytes : List Byte) : List (List Byte) :=
  let others := bytes.takeWhile fun b => b == 0x66#8 || b == 0xF2#8 || b == 0xF3#8
  (insertions r.overrideByte others).map (· ++ bytes.drop others.length)

/-- Assemble a line of text at offset `here` of CS; a line that does not parse, and `DB` after a segment prefix, is
MalformedInstruction (30_encoding.md R180, R189). A segment prefix is one byte before the instruction. -/
def assembleText (syn : AsmSyntax) (here : Word) (text : List Char) : Except AsmError (List (List Byte)) :=
  match parseLine syn text with
  | none => .error .malformedInstruction
  | some (none, l) => assemble here l
  | some (some r, l) =>
    if l.mnemonic = "DB" then .error .malformedInstruction
    else (assemble (here + 1#16) l).map (·.flatMap (withSegment r))

/-- The line's bytes appended to a code buffer that starts at offset `base` of CS: every buffer that may come out
(30_encoding.md R180). -/
def assembleOnto (syn : AsmSyntax) (base : Word) (buffer : List Byte) (text : List Char) :
    Except AsmError (List (List Byte)) :=
  (assembleText syn (base + BitVec.ofNat 16 buffer.length) text).map (·.map (buffer ++ ·))

end Sys2Proof.Machine
end

