-- ==== Sys2Proof/Machine/HostPort.lean ====
section
/-! DEFINITION. The memory interface offered to the host between steps (20_memory.md R80, R81). No instruction uses it. -/

namespace Sys2Proof.Machine

/-- A host access of `n` bytes at physical `p` that does not lie in memory (20_memory.md R74, R80). The host's offset may
be any integer, so `p` may be too. DESIGN CHOICE (log entry 22): it is the accessor's answer to the host and leaves the
core's fault mark as it was. -/
structure PortFault where
  p : Int
  n : Nat
  access : Access
deriving DecidableEq, Repr

/-- `phys(segment, offset)` with the host's offset not reduced (20_memory.md R80). -/
def portPhys (segment : Word) (offset : Int) : Int := segment.toNat * 0x10 + offset

/-- The physical address of an access of n bytes, or its fault; an access of no bytes touches nothing (log entry 16). -/
def portAddress (segment : Word) (offset : Int) (n : Nat) (access : Access) (s : State) : Except PortFault Nat :=
  let p := portPhys segment offset
  if n ≠ 0 ∧ (p < 0 ∨ s.params.memSize ≤ p + n - 1) then .error ⟨p, n, access⟩ else .ok p.toNat

/-- Read n bytes, little-endian. A failing read does not mark the core Faulted: DESIGN CHOICE, log entry 22. -/
def portRead (segment : Word) (offset : Int) (n : Nat) (s : State) : Except PortFault Nat :=
  match portAddress segment offset n .read s with
  | .error e => .error e
  | .ok p => .ok (Memory.load s.mem p n)

/-- Write n bytes, little-endian; a failing write changes nothing, the fault mark neither (log entries 16, 22). -/
def portWrite (segment : Word) (offset : Int) (n v : Nat) (s : State) : Except PortFault State :=
  match portAddress segment offset n .write s with
  | .error e => .error e
  | .ok p => .ok { s with mem := Memory.store s.mem p v n }

/-- `getByte(segment, offset)`. -/
def getByte (segment : Word) (offset : Int) (s : State) : Except PortFault Byte :=
  (portRead segment offset 1 s).map (BitVec.ofNat 8)

/-- `getWord(segment, offset)`. -/
def getWord (segment : Word) (offset : Int) (s : State) : Except PortFault Word :=
  (portRead segment offset 2 s).map (BitVec.ofNat 16)

/-- `getDoubleWord(segment, offset)`. -/
def getDoubleWord (segment : Word) (offset : Int) (s : State) : Except PortFault Dword :=
  (portRead segment offset 4 s).map (BitVec.ofNat 32)

/-- `getQuadWord(segment, offset)`: a 64-bit value (20_memory.md R80). -/
def getQuadWord (segment : Word) (offset : Int) (s : State) : Except PortFault (BitVec 64) :=
  (portRead segment offset 8 s).map (BitVec.ofNat 64)

/-- `setByte(segment, offset, value)`. -/
def setByte (segment : Word) (offset : Int) (v : Byte) (s : State) : Except PortFault State :=
  portWrite segment offset 1 v.toNat s

/-- `setWord(segment, offset, value)`. -/
def setWord (segment : Word) (offset : Int) (v : Word) (s : State) : Except PortFault State :=
  portWrite segment offset 2 v.toNat s

/-- `setDoubleWord(segment, offset, value)`. -/
def setDoubleWord (segment : Word) (offset : Int) (v : Dword) (s : State) : Except PortFault State :=
  portWrite segment offset 4 v.toNat s

/-- `setQuadWord(segment, offset, value)`. -/
def setQuadWord (segment : Word) (offset : Int) (v : BitVec 64) (s : State) : Except PortFault State :=
  portWrite segment offset 8 v.toNat s

/-- `getBytes(segment, offset, length)`: consecutive bytes, lowest address first. -/
def getBytes (segment : Word) (offset : Int) (length : Nat) (s : State) : Except PortFault (List Byte) :=
  match portAddress segment offset length .read s with
  | .error e => .error e
  | .ok p => .ok ((byteRange p length).map (Memory.read s.mem))

/-- Write consecutive bytes from `p` on. -/
def Memory.writeBytes (m : Memory) (p : Nat) : List Byte → Memory
  | [] => m
  | b :: bs => Memory.writeBytes (Memory.write m p b) (p + 1) bs

/-- `setBytes(segment, offset, length)` with the bytes to write. -/
def setBytes (segment : Word) (offset : Int) (bs : List Byte) (s : State) : Except PortFault State :=
  match portAddress segment offset bs.length .write s with
  | .error e => .error e
  | .ok p => .ok { s with mem := Memory.writeBytes s.mem p bs }

/-- `setBits(segment, offset, mask)`: `MEM[p] <- MEM[p] | mask` (20_memory.md R81). Of the read and the write, both of which
fail at the same addresses, a failing call reports the write: DESIGN CHOICE, log entry 23. -/
def setBits (segment : Word) (offset : Int) (mask : Byte) (s : State) : Except PortFault State :=
  match portAddress segment offset 1 .write s with
  | .error e => .error e
  | .ok p => .ok { s with mem := Memory.write s.mem p (Memory.read s.mem p ||| mask) }

end Sys2Proof.Machine
end

