-- ==== Sys2Proof/Safety.lean ====
section
/-! DEFINITION. What the claims speak of: safe runs and how they end (70_reset_and_hazards.md R712), the invariant of the
machine, what an instruction may change, and the instructions of each family with their operands, row by row. Nothing here
takes part in a step. -/

namespace Sys2Proof.Machine

/-! ## Runs -/

/-- The core has a step: neither halted nor faulted (10_state.md R46). -/
abbrev State.running (s : State) : Prop := s.fault = none ∧ s.halted = false

/-- `s` steps to `t` in n steps. -/
def stepsTo : Nat → State → State → Prop
  | 0, s, t => s = t
  | n + 1, s, t => ∃ u, step s = .next u ∧ stepsTo n u t

/-- A run from `s` ends at `t` by HLT: case (a) of 70_reset_and_hazards.md R712. -/
def endsByHalt (s t : State) : Prop := (∃ n, stepsTo n s t) ∧ t.halted = true ∧ t.fault = none

/-- A run from `s` ends at `t` by a fault with this record: case (b) of 70_reset_and_hazards.md R712. -/
def endsByFault (s t : State) (r : FaultRecord) : Prop := (∃ n, stepsTo n s t) ∧ t.fault = some r

/-- A safe run: no state it reaches is faulted. -/
def safeFrom (s : State) : Prop := ∀ n t, stepsTo n s t → t.fault = none

/-- The decoder state after the leading prefix bytes of `bs`: what an instruction is decoded under. -/
def prefixesRead : Nat → Prefixes → List Byte → Prefixes
  | 0, p, _ => p
  | n + 1, p, bs =>
    match decodeUnit p bs with
    | .ok i m =>
      match i.asPrefix with
      | some q => prefixesRead n (p.collect q) (bs.drop m)
      | none => p
    | _ => p

/-! ## The invariant -/

/-- Memory is in canonical form and lies below `MEM_SIZE`, no decoder state survives between steps (10_state.md R45,
60_exceptions.md R606), and the two run-state marks are not both set (10_state.md R46). -/
structure State.Inv (s : State) : Prop where
  memWf : Memory.wf s.mem
  memBelow : ∀ c ∈ s.mem, c.1 < s.params.memSize
  preClear : s.pre = {}
  kClear : s.k = 0
  marks : s.halted = true → s.fault = none

/-! ## Operands that lie in memory, and their values -/

/-- Whether an access of the operand at width w lies in memory (20_memory.md R74). -/
def accessible (w : Width) (op : Operand) (s : State) : Prop :=
  match op with
  | .mem seg off => s.addr seg off + w.bytes ≤ s.params.memSize
  | _ => True

/-- Whether n bytes at `p` lie in memory. -/
abbrev inMemory (p n : Nat) (s : State) : Prop := p + n ≤ s.params.memSize

/-- The little-endian value at physical `p`. -/
def memValue (w : Width) (p : Nat) (s : State) : BitVec w.bits := BitVec.ofNat w.bits (Memory.load s.mem p w.bytes)

/-- Memory with a value stored at physical `p`. -/
def memStored (w : Width) (p : Nat) (v : BitVec w.bits) (s : State) : State :=
  s.setMem (Memory.store s.mem p v.toNat w.bytes)

/-- The operand's value. -/
def valueOf (w : Width) (op : Operand) (s : State) : BitVec w.bits :=
  match op with
  | .reg r => readReg w r s
  | .mem seg off => memValue w (s.addr seg off) s
  | .imm v => v.setWidth w.bits
  | .seg r => (s.sreg.get r).setWidth w.bits

/-- The state with a value written to the operand. -/
def stored (w : Width) (op : Operand) (v : BitVec w.bits) (s : State) : State :=
  match op with
  | .reg r => writeReg w r v s
  | .mem seg off => memStored w (s.addr seg off) v s
  | .imm _ => s
  | .seg r => s.setSreg r (v.setWidth 16)

/-- The physical address of the j-th word pushed from `s` on, j = 1, 2, 3 (47_data_transfer.md R520). -/
def pushAddr (s : State) (j : Nat) : Nat := phys s.sreg.ss (s.sp - BitVec.ofNat 16 (2 * j))

/-- The physical address of the j-th word popped from `s` on, j = 0, 1, 2 (47_data_transfer.md R520). -/
def popAddr (s : State) (j : Nat) : Nat := phys s.sreg.ss (s.sp + BitVec.ofNat 16 (2 * j))

/-- The word at physical `p`. -/
def wordAt (s : State) (p : Nat) : Word := memValue .w16 p s

/-- One word pushed, the memory access taken as given. -/
def pushed (v : Word) (s : State) : State :=
  writeReg .w16 .sp (s.sp - 2#16) (memStored .w16 (pushAddr s 1) v s)

/-! ## What an instruction may change -/

/-- The places an instruction may write: register views, segment registers, flags, bytes of memory. -/
structure Writes where
  regs : List (Width × Reg) := []
  sregs : List SReg := []
  flags : List FlagName := []
  bytes : List Nat := []

/-- Whether bit b of the 32-bit register q lies in a view (10_state.md R31). -/
def viewCovers (v : Width × Reg) (q : Reg) (b : Nat) : Prop :=
  match v.1 with
  | .w8 => q = byteParent v.2 ∧ (if isHighByte v.2 then 8 ≤ b ∧ b < 16 else b < 8)
  | .w16 => q = v.2 ∧ b < 16
  | .w32 => q = v.2

/-- THE FRAME: every bit of every general register, every segment register, every flag and every byte of memory that is
not among the places, and the marks, the decoder state and the parameters, are as before. -/
structure Unchanged (x : Writes) (s t : State) : Prop where
  regs : ∀ q b, (∀ v ∈ x.regs, ¬ viewCovers v q b) → (t.gpr.get q).getLsbD b = (s.gpr.get q).getLsbD b
  sregs : ∀ q, q ∉ x.sregs → t.sreg.get q = s.sreg.get q
  flags : ∀ f, f ∉ x.flags → t.flags.get f = s.flags.get f
  bytes : ∀ p, p ∉ x.bytes → Memory.read t.mem p = Memory.read s.mem p
  fault : t.fault = s.fault
  pre : t.pre = s.pre
  k : t.k = s.k
  halted : t.halted = s.halted
  params : t.params = s.params

/-- The bytes of an operand that is written at width w; none for a register. -/
def operandBytes (w : Width) (op : Operand) (s : State) : List Nat :=
  match op with
  | .mem seg off => byteRange (s.addr seg off) w.bytes
  | _ => []

/-- The places an operand that is written at width w is. -/
def operandWrites (w : Width) (op : Operand) (s : State) : Writes where
  regs := match op with | .reg r => [(w, r)] | _ => []
  sregs := match op with | .seg r => [r] | _ => []
  bytes := operandBytes w op s

/-- The bytes of the first n words pushed from `s` on. -/
def pushedBytes (s : State) (n : Nat) : List Nat := (List.range n).flatMap fun j => byteRange (pushAddr s (j + 1)) 2

/-- All nine flags. -/
def allFlags : List FlagName := [.CF, .PF, .AF, .ZF, .SF, .TF, .IF, .DF, .OF]

/-! ## The instructions of each family, with their operands (spec/opcode_table.json) -/

/-- A binary ALU instruction: operation, width, destination, source. -/
structure BinaryForm where
  op : BinOp
  w : Width
  dst : Operand
  src : Operand

/-- An operation on one operand. -/
structure UnaryForm where
  op : UnOp
  w : Width
  dst : Operand

/-- A shift or rotate: operation, width, operand, the byte its count is taken from. -/
structure ShiftForm where
  op : ShiftOp
  w : Width
  dst : Operand
  count : Byte

/-- A width, a destination and a source. -/
structure PairForm where
  w : Width
  dst : Operand
  src : Operand

/-- A string instruction: operation, width, segment override. -/
structure StringForm where
  op : StrOp
  w : Width
  ovr : Option SReg

/-- A repeated string instruction. -/
structure RepeatForm extends StringForm where
  kind : Repeat

/-- ADD, OR, ADC, SBB, AND, SUB, XOR, CMP (40_alu_binary.md R216-R223). -/
def binaryForm (i : Instr) (s : State) : Option BinaryForm :=
  match i with
  | .addEbGb e g => some ⟨.add, .w8, operandOf e s, .reg g⟩
  | .addEvGv o e g => some ⟨.add, o.width, operandOf e s, .reg g⟩
  | .addGbEb g e => some ⟨.add, .w8, .reg g, operandOf e s⟩
  | .addGvEv o g e => some ⟨.add, o.width, .reg g, operandOf e s⟩
  | .addAlIb imm => some ⟨.add, .w8, .reg .ax, .imm (imm.setWidth 32)⟩
  | .addEaxIv o imm => some ⟨.add, o.width, .reg .ax, .imm imm⟩
  | .orEbGb e g => some ⟨.or, .w8, operandOf e s, .reg g⟩
  | .orEvGv o e g => some ⟨.or, o.width, operandOf e s, .reg g⟩
  | .orGbEb g e => some ⟨.or, .w8, .reg g, operandOf e s⟩
  | .orGvEv o g e => some ⟨.or, o.width, .reg g, operandOf e s⟩
  | .orAlIb imm => some ⟨.or, .w8, .reg .ax, .imm (imm.setWidth 32)⟩
  | .orEaxIv o imm => some ⟨.or, o.width, .reg .ax, .imm imm⟩
  | .adcEbGb e g => some ⟨.adc, .w8, operandOf e s, .reg g⟩
  | .adcEvGv o e g => some ⟨.adc, o.width, operandOf e s, .reg g⟩
  | .adcGbEb g e => some ⟨.adc, .w8, .reg g, operandOf e s⟩
  | .adcGvEv o g e => some ⟨.adc, o.width, .reg g, operandOf e s⟩
  | .adcAlIb imm => some ⟨.adc, .w8, .reg .ax, .imm (imm.setWidth 32)⟩
  | .adcEaxIv o imm => some ⟨.adc, o.width, .reg .ax, .imm imm⟩
  | .sbbEbGb e g => some ⟨.sbb, .w8, operandOf e s, .reg g⟩
  | .sbbEvGv o e g => some ⟨.sbb, o.width, operandOf e s, .reg g⟩
  | .sbbGbEb g e => some ⟨.sbb, .w8, .reg g, operandOf e s⟩
  | .sbbGvEv o g e => some ⟨.sbb, o.width, .reg g, operandOf e s⟩
  | .sbbAlIb imm => some ⟨.sbb, .w8, .reg .ax, .imm (imm.setWidth 32)⟩
  | .sbbEaxIv o imm => some ⟨.sbb, o.width, .reg .ax, .imm imm⟩
  | .andEbGb e g => some ⟨.and, .w8, operandOf e s, .reg g⟩
  | .andEvGv o e g => some ⟨.and, o.width, operandOf e s, .reg g⟩
  | .andGbEb g e => some ⟨.and, .w8, .reg g, operandOf e s⟩
  | .andGvEv o g e => some ⟨.and, o.width, .reg g, operandOf e s⟩
  | .andAlIb imm => some ⟨.and, .w8, .reg .ax, .imm (imm.setWidth 32)⟩
  | .andEaxIv o imm => some ⟨.and, o.width, .reg .ax, .imm imm⟩
  | .subEbGb e g => some ⟨.sub, .w8, operandOf e s, .reg g⟩
  | .subEvGv o e g => some ⟨.sub, o.width, operandOf e s, .reg g⟩
  | .subGbEb g e => some ⟨.sub, .w8, .reg g, operandOf e s⟩
  | .subGvEv o g e => some ⟨.sub, o.width, .reg g, operandOf e s⟩
  | .subAlIb imm => some ⟨.sub, .w8, .reg .ax, .imm (imm.setWidth 32)⟩
  | .subEaxIv o imm => some ⟨.sub, o.width, .reg .ax, .imm imm⟩
  | .xorEbGb e g => some ⟨.xor, .w8, operandOf e s, .reg g⟩
  | .xorEvGv o e g => some ⟨.xor, o.width, operandOf e s, .reg g⟩
  | .xorGbEb g e => some ⟨.xor, .w8, .reg g, operandOf e s⟩
  | .xorGvEv o g e => some ⟨.xor, o.width, .reg g, operandOf e s⟩
  | .xorAlIb imm => some ⟨.xor, .w8, .reg .ax, .imm (imm.setWidth 32)⟩
  | .xorEaxIv o imm => some ⟨.xor, o.width, .reg .ax, .imm imm⟩
  | .cmpEbGb e g => some ⟨.cmp, .w8, operandOf e s, .reg g⟩
  | .cmpEvGv o e g => some ⟨.cmp, o.width, operandOf e s, .reg g⟩
  | .cmpGbEb g e => some ⟨.cmp, .w8, .reg g, operandOf e s⟩
  | .cmpGvEv o g e => some ⟨.cmp, o.width, .reg g, operandOf e s⟩
  | .cmpAlIb imm => some ⟨.cmp, .w8, .reg .ax, .imm (imm.setWidth 32)⟩
  | .cmpEaxIv o imm => some ⟨.cmp, o.width, .reg .ax, .imm imm⟩
  | .addEbIb e imm => some ⟨.add, .w8, operandOf e s, .imm (imm.setWidth 32)⟩
  | .addEvIv o e imm => some ⟨.add, o.width, operandOf e s, .imm imm⟩
  | .addEvSIb o e imm => some ⟨.add, o.width, operandOf e s, .imm (imm.signExtend 32)⟩
  | .orEbIb e imm => some ⟨.or, .w8, operandOf e s, .imm (imm.setWidth 32)⟩
  | .orEvIv o e imm => some ⟨.or, o.width, operandOf e s, .imm imm⟩
  | .orEvSIb o e imm => some ⟨.or, o.width, operandOf e s, .imm (imm.signExtend 32)⟩
  | .adcEbIb e imm => some ⟨.adc, .w8, operandOf e s, .imm (imm.setWidth 32)⟩
  | .adcEvIv o e imm => some ⟨.adc, o.width, operandOf e s, .imm imm⟩
  | .adcEvSIb o e imm => some ⟨.adc, o.width, operandOf e s, .imm (imm.signExtend 32)⟩
  | .sbbEbIb e imm => some ⟨.sbb, .w8, operandOf e s, .imm (imm.setWidth 32)⟩
  | .sbbEvIv o e imm => some ⟨.sbb, o.width, operandOf e s, .imm imm⟩
  | .sbbEvSIb o e imm => some ⟨.sbb, o.width, operandOf e s, .imm (imm.signExtend 32)⟩
  | .andEbIb e imm => some ⟨.and, .w8, operandOf e s, .imm (imm.setWidth 32)⟩
  | .andEvIv o e imm => some ⟨.and, o.width, operandOf e s, .imm imm⟩
  | .andEvSIb o e imm => some ⟨.and, o.width, operandOf e s, .imm (imm.signExtend 32)⟩
  | .subEbIb e imm => some ⟨.sub, .w8, operandOf e s, .imm (imm.setWidth 32)⟩
  | .subEvIv o e imm => some ⟨.sub, o.width, operandOf e s, .imm imm⟩
  | .subEvSIb o e imm => some ⟨.sub, o.width, operandOf e s, .imm (imm.signExtend 32)⟩
  | .xorEbIb e imm => some ⟨.xor, .w8, operandOf e s, .imm (imm.setWidth 32)⟩
  | .xorEvIv o e imm => some ⟨.xor, o.width, operandOf e s, .imm imm⟩
  | .xorEvSIb o e imm => some ⟨.xor, o.width, operandOf e s, .imm (imm.signExtend 32)⟩
  | .cmpEbIb e imm => some ⟨.cmp, .w8, operandOf e s, .imm (imm.setWidth 32)⟩
  | .cmpEvIv o e imm => some ⟨.cmp, o.width, operandOf e s, .imm imm⟩
  | .cmpEvSIb o e imm => some ⟨.cmp, o.width, operandOf e s, .imm (imm.signExtend 32)⟩
  | _ => none

/-- TEST (40_alu_binary.md R224). -/
def testForm (i : Instr) (s : State) : Option PairForm :=
  match i with
  | .testEbGb e g => some ⟨.w8, operandOf e s, .reg g⟩
  | .testEvGv o e g => some ⟨o.width, operandOf e s, .reg g⟩
  | .testAlIb imm => some ⟨.w8, .reg .ax, .imm (imm.setWidth 32)⟩
  | .testEaxIv o imm => some ⟨o.width, .reg .ax, .imm imm⟩
  | .testEbIb e imm => some ⟨.w8, operandOf e s, .imm (imm.setWidth 32)⟩
  | .testEvIv o e imm => some ⟨o.width, operandOf e s, .imm imm⟩
  | _ => none

/-- INC, DEC, NOT, NEG (41_alu_unary.md R250-R253). -/
def unaryForm (i : Instr) (s : State) : Option UnaryForm :=
  match i with
  | .incReg o r => some ⟨.inc, o.width, .reg r⟩
  | .incEb e => some ⟨.inc, .w8, operandOf e s⟩
  | .incEv o e => some ⟨.inc, o.width, operandOf e s⟩
  | .decReg o r => some ⟨.dec, o.width, .reg r⟩
  | .decEb e => some ⟨.dec, .w8, operandOf e s⟩
  | .decEv o e => some ⟨.dec, o.width, operandOf e s⟩
  | .notEb e => some ⟨.not, .w8, operandOf e s⟩
  | .notEv o e => some ⟨.not, o.width, operandOf e s⟩
  | .negEb e => some ⟨.neg, .w8, operandOf e s⟩
  | .negEv o e => some ⟨.neg, o.width, operandOf e s⟩
  | _ => none

/-- The multiply and divide operations. -/
inductive MulDivOp where
  | mul | imul | div | idiv
deriving DecidableEq, Repr

/-- A multiply or divide: operation, width, source. -/
structure MulDivForm where
  op : MulDivOp
  w : Width
  src : Operand

/-- MUL, IMUL, DIV, IDIV (42_muldiv.md R300-R303). -/
def mulDivForm (i : Instr) (s : State) : Option MulDivForm :=
  match i with
  | .mulEb e => some ⟨.mul, .w8, operandOf e s⟩
  | .mulEv o e => some ⟨.mul, o.width, operandOf e s⟩
  | .imulEb e => some ⟨.imul, .w8, operandOf e s⟩
  | .imulEv o e => some ⟨.imul, o.width, operandOf e s⟩
  | .divEb e => some ⟨.div, .w8, operandOf e s⟩
  | .divEv o e => some ⟨.div, o.width, operandOf e s⟩
  | .idivEb e => some ⟨.idiv, .w8, operandOf e s⟩
  | .idivEv o e => some ⟨.idiv, o.width, operandOf e s⟩
  | _ => none

/-- ROL, ROR, RCL, RCR, SHL, SHR, SAR by an immediate, by 1 or by CL (43_shift_rotate.md R331-R337). -/
def shiftForm (i : Instr) (s : State) : Option ShiftForm :=
  match i with
  | .rolEbIb e imm => some ⟨.rol, .w8, operandOf e s, imm⟩
  | .rolEvIb o e imm => some ⟨.rol, o.width, operandOf e s, imm⟩
  | .rolEb1 e => some ⟨.rol, .w8, operandOf e s, 1#8⟩
  | .rolEv1 o e => some ⟨.rol, o.width, operandOf e s, 1#8⟩
  | .rolEbCl e => some ⟨.rol, .w8, operandOf e s, readReg .w8 .cx s⟩
  | .rolEvCl o e => some ⟨.rol, o.width, operandOf e s, readReg .w8 .cx s⟩
  | .rorEbIb e imm => some ⟨.ror, .w8, operandOf e s, imm⟩
  | .rorEvIb o e imm => some ⟨.ror, o.width, operandOf e s, imm⟩
  | .rorEb1 e => some ⟨.ror, .w8, operandOf e s, 1#8⟩
  | .rorEv1 o e => some ⟨.ror, o.width, operandOf e s, 1#8⟩
  | .rorEbCl e => some ⟨.ror, .w8, operandOf e s, readReg .w8 .cx s⟩
  | .rorEvCl o e => some ⟨.ror, o.width, operandOf e s, readReg .w8 .cx s⟩
  | .rclEbIb e imm => some ⟨.rcl, .w8, operandOf e s, imm⟩
  | .rclEvIb o e imm => some ⟨.rcl, o.width, operandOf e s, imm⟩
  | .rclEb1 e => some ⟨.rcl, .w8, operandOf e s, 1#8⟩
  | .rclEv1 o e => some ⟨.rcl, o.width, operandOf e s, 1#8⟩
  | .rclEbCl e => some ⟨.rcl, .w8, operandOf e s, readReg .w8 .cx s⟩
  | .rclEvCl o e => some ⟨.rcl, o.width, operandOf e s, readReg .w8 .cx s⟩
  | .rcrEbIb e imm => some ⟨.rcr, .w8, operandOf e s, imm⟩
  | .rcrEvIb o e imm => some ⟨.rcr, o.width, operandOf e s, imm⟩
  | .rcrEb1 e => some ⟨.rcr, .w8, operandOf e s, 1#8⟩
  | .rcrEv1 o e => some ⟨.rcr, o.width, operandOf e s, 1#8⟩
  | .rcrEbCl e => some ⟨.rcr, .w8, operandOf e s, readReg .w8 .cx s⟩
  | .rcrEvCl o e => some ⟨.rcr, o.width, operandOf e s, readReg .w8 .cx s⟩
  | .shlEbIb e imm => some ⟨.shl, .w8, operandOf e s, imm⟩
  | .shlEvIb o e imm => some ⟨.shl, o.width, operandOf e s, imm⟩
  | .shlEb1 e => some ⟨.shl, .w8, operandOf e s, 1#8⟩
  | .shlEv1 o e => some ⟨.shl, o.width, operandOf e s, 1#8⟩
  | .shlEbCl e => some ⟨.shl, .w8, operandOf e s, readReg .w8 .cx s⟩
  | .shlEvCl o e => some ⟨.shl, o.width, operandOf e s, readReg .w8 .cx s⟩
  | .shrEbIb e imm => some ⟨.shr, .w8, operandOf e s, imm⟩
  | .shrEvIb o e imm => some ⟨.shr, o.width, operandOf e s, imm⟩
  | .shrEb1 e => some ⟨.shr, .w8, operandOf e s, 1#8⟩
  | .shrEv1 o e => some ⟨.shr, o.width, operandOf e s, 1#8⟩
  | .shrEbCl e => some ⟨.shr, .w8, operandOf e s, readReg .w8 .cx s⟩
  | .shrEvCl o e => some ⟨.shr, o.width, operandOf e s, readReg .w8 .cx s⟩
  | .sarEbIb e imm => some ⟨.sar, .w8, operandOf e s, imm⟩
  | .sarEvIb o e imm => some ⟨.sar, o.width, operandOf e s, imm⟩
  | .sarEb1 e => some ⟨.sar, .w8, operandOf e s, 1#8⟩
  | .sarEv1 o e => some ⟨.sar, o.width, operandOf e s, 1#8⟩
  | .sarEbCl e => some ⟨.sar, .w8, operandOf e s, readReg .w8 .cx s⟩
  | .sarEvCl o e => some ⟨.sar, o.width, operandOf e s, readReg .w8 .cx s⟩
  | _ => none

/-- The sixteen conditional jumps: condition and displacement (45_control_transfer.md R403-R418). -/
def shortJump (i : Instr) : Option (Cond × Byte) :=
  match i with
  | .jo d => some (.jo, d)
  | .jno d => some (.jno, d)
  | .jc d => some (.jc, d)
  | .jnc d => some (.jnc, d)
  | .jz d => some (.jz, d)
  | .jnz d => some (.jnz, d)
  | .jbe d => some (.jbe, d)
  | .ja d => some (.ja, d)
  | .js d => some (.js, d)
  | .jns d => some (.jns, d)
  | .jpe d => some (.jpe, d)
  | .jpo d => some (.jpo, d)
  | .jl d => some (.jl, d)
  | .jge d => some (.jge, d)
  | .jle d => some (.jle, d)
  | .jg d => some (.jg, d)
  | _ => none

/-- The string instructions without a repetition prefix (46_string.md R461-R465). -/
def stringForm (i : Instr) : Option StringForm :=
  match i with
  | .movsb ovr => some ⟨.movs, .w8, ovr⟩
  | .movsw ovr => some ⟨.movs, .w16, ovr⟩
  | .movsd ovr => some ⟨.movs, .w32, ovr⟩
  | .cmpsb ovr => some ⟨.cmps, .w8, ovr⟩
  | .cmpsw ovr => some ⟨.cmps, .w16, ovr⟩
  | .cmpsd ovr => some ⟨.cmps, .w32, ovr⟩
  | .stosb => some ⟨.stos, .w8, none⟩
  | .stosw => some ⟨.stos, .w16, none⟩
  | .stosd => some ⟨.stos, .w32, none⟩
  | .lodsb ovr => some ⟨.lods, .w8, ovr⟩
  | .lodsw ovr => some ⟨.lods, .w16, ovr⟩
  | .lodsd ovr => some ⟨.lods, .w32, ovr⟩
  | .scasb => some ⟨.scas, .w8, none⟩
  | .scasw => some ⟨.scas, .w16, none⟩
  | .scasd => some ⟨.scas, .w32, none⟩
  | _ => none

/-- The string instructions under a repetition prefix (46_string.md R470, R471). -/
def repeatForm (i : Instr) : Option RepeatForm :=
  match i with
  | .repMovsb ovr => some ⟨⟨.movs, .w8, ovr⟩, .rep⟩
  | .repMovsw ovr => some ⟨⟨.movs, .w16, ovr⟩, .rep⟩
  | .repMovsd ovr => some ⟨⟨.movs, .w32, ovr⟩, .rep⟩
  | .repeCmpsb ovr => some ⟨⟨.cmps, .w8, ovr⟩, .repz⟩
  | .repneCmpsb ovr => some ⟨⟨.cmps, .w8, ovr⟩, .repnz⟩
  | .repeCmpsw ovr => some ⟨⟨.cmps, .w16, ovr⟩, .repz⟩
  | .repneCmpsw ovr => some ⟨⟨.cmps, .w16, ovr⟩, .repnz⟩
  | .repeCmpsd ovr => some ⟨⟨.cmps, .w32, ovr⟩, .repz⟩
  | .repneCmpsd ovr => some ⟨⟨.cmps, .w32, ovr⟩, .repnz⟩
  | .repStosb => some ⟨⟨.stos, .w8, none⟩, .rep⟩
  | .repStosw => some ⟨⟨.stos, .w16, none⟩, .rep⟩
  | .repStosd => some ⟨⟨.stos, .w32, none⟩, .rep⟩
  | .repLodsb ovr => some ⟨⟨.lods, .w8, ovr⟩, .rep⟩
  | .repLodsw ovr => some ⟨⟨.lods, .w16, ovr⟩, .rep⟩
  | .repLodsd ovr => some ⟨⟨.lods, .w32, ovr⟩, .rep⟩
  | .repeScasb => some ⟨⟨.scas, .w8, none⟩, .repz⟩
  | .repneScasb => some ⟨⟨.scas, .w8, none⟩, .repnz⟩
  | .repeScasw => some ⟨⟨.scas, .w16, none⟩, .repz⟩
  | .repneScasw => some ⟨⟨.scas, .w16, none⟩, .repnz⟩
  | .repeScasd => some ⟨⟨.scas, .w32, none⟩, .repz⟩
  | .repneScasd => some ⟨⟨.scas, .w32, none⟩, .repnz⟩
  | _ => none

/-- MOV (47_data_transfer.md R490-R494). -/
def moveForm (i : Instr) (s : State) : Option PairForm :=
  match i with
  | .movEbGb e g => some ⟨.w8, operandOf e s, .reg g⟩
  | .movEvGv o e g => some ⟨o.width, operandOf e s, .reg g⟩
  | .movGbEb g e => some ⟨.w8, .reg g, operandOf e s⟩
  | .movGvEv o g e => some ⟨o.width, .reg g, operandOf e s⟩
  | .movRegIb r imm => some ⟨.w8, .reg r, .imm (imm.setWidth 32)⟩
  | .movRegIv o r imm => some ⟨o.width, .reg r, .imm imm⟩
  | .movEbIb e imm => some ⟨.w8, operandOf e s, .imm (imm.setWidth 32)⟩
  | .movEvIv o e imm => some ⟨o.width, operandOf e s, .imm imm⟩
  | .movAlMoffs ovr off => some ⟨.w8, .reg .ax, moffsOperand ovr off⟩
  | .movEaxMoffs o ovr off => some ⟨o.width, .reg .ax, moffsOperand ovr off⟩
  | .movMoffsAl ovr off => some ⟨.w8, moffsOperand ovr off, .reg .ax⟩
  | .movMoffsEax o ovr off => some ⟨o.width, moffsOperand ovr off, .reg .ax⟩
  | .movEwSw e r => some ⟨.w16, operandOf e s, .seg r⟩
  | .movSwEw r e => some ⟨.w16, .seg r, operandOf e s⟩
  | _ => none

/-- XCHG (47_data_transfer.md R495). -/
def exchangeForm (i : Instr) (s : State) : Option PairForm :=
  match i with
  | .xchgEbGb e g => some ⟨.w8, operandOf e s, .reg g⟩
  | .xchgEvGv o e g => some ⟨o.width, operandOf e s, .reg g⟩
  | .xchgEaxCx o => some ⟨o.width, .reg .ax, .reg .cx⟩
  | .xchgEaxDx o => some ⟨o.width, .reg .ax, .reg .dx⟩
  | .xchgEaxBx o => some ⟨o.width, .reg .ax, .reg .bx⟩
  | .xchgEaxSp o => some ⟨o.width, .reg .ax, .reg .sp⟩
  | .xchgEaxBp o => some ⟨o.width, .reg .ax, .reg .bp⟩
  | .xchgEaxSi o => some ⟨o.width, .reg .ax, .reg .si⟩
  | .xchgEaxDi o => some ⟨o.width, .reg .ax, .reg .di⟩
  | _ => none

/-- A far load: segment register, operand size, register, memory operand. -/
structure FarLoadForm where
  seg : SReg
  o : OSize
  g : Reg
  m : MemRef

/-- LES, LDS, LSS, LFS, LGS (47_data_transfer.md R500-R505). -/
def farLoadForm (i : Instr) : Option FarLoadForm :=
  match i with
  | .lesGvMp o g m => some ⟨.es, o, g, m⟩
  | .ldsGvMp o g m => some ⟨.ds, o, g, m⟩
  | .lssGvMp o g m => some ⟨.ss, o, g, m⟩
  | .lfsGvMp o g m => some ⟨.fs, o, g, m⟩
  | .lgsGvMp o g m => some ⟨.gs, o, g, m⟩
  | _ => none

/-- PUSH: the operand pushed (47_data_transfer.md R521-R523). -/
def pushForm (i : Instr) (s : State) : Option Operand :=
  match i with
  | .pushReg r => some (.reg r)
  | .pushEs => some (.seg .es)
  | .pushCs => some (.seg .cs)
  | .pushSs => some (.seg .ss)
  | .pushDs => some (.seg .ds)
  | .pushEv e => some (operandOf e s)
  | _ => none

/-- POP: the operand popped into (47_data_transfer.md R524-R526). -/
def popForm (i : Instr) (s : State) : Option Operand :=
  match i with
  | .popReg r => some (.reg r)
  | .popEs => some (.seg .es)
  | .popSs => some (.seg .ss)
  | .popDs => some (.seg .ds)
  | .popEv e => some (operandOf e s)
  | _ => none

/-! ## Faults, prefixes, rows and string elements, as the claims name them -/

/-- The state a fault leaves when nothing was written before it: the mark with its record, no decoder state, all else as
at the start (60_exceptions.md R602-R604). -/
def faultState (info : FaultInfo) (s : State) : State := { s.endInstr with fault := some ⟨info, s.sreg.cs, s.ip⟩ }

/-- The state after the read of an operand outside memory fails (20_memory.md R74). -/
def readFaulted (w : Width) (op : Operand) (s : State) : State :=
  match op with
  | .mem seg off => faultState (.memoryFault (s.addr seg off) w.bytes .read) s
  | _ => s

/-- The byte of a prefix (30_encoding.md R111). -/
def prefixByte : Prefix → Byte
  | .seg .es => 0x26
  | .seg .cs => 0x2E
  | .seg .ss => 0x36
  | .seg .ds => 0x3E
  | .seg .fs => 0x64
  | .seg .gs => 0x65
  | .opSize => 0x66
  | .repZ => 0xF3
  | .repNZ => 0xF2

/-- The segment a prefix names. -/
def prefixSegment : Prefix → Option SReg
  | .seg r => some r
  | .opSize | .repZ | .repNZ => none

/-- The repetition a prefix names. -/
def prefixRepeat : Prefix → Option RepPrefix
  | .repZ => some .z
  | .repNZ => some .nz
  | .seg _ | .opSize => none

/-- The nine prefix bytes. -/
def prefixBytes : List Byte := [0x26, 0x2E, 0x36, 0x3E, 0x64, 0x65, 0x66, 0xF2, 0xF3]

/-- The one-byte opcodes of 30_encoding.md R172 that take 0x66 whatever follows. -/
def operandSizeOpcodes : List Byte :=
  [0x01, 0x03, 0x05, 0x09, 0x0B, 0x0D, 0x11, 0x13, 0x15, 0x19, 0x1B, 0x1D, 0x21, 0x23, 0x25, 0x29, 0x2B, 0x2D, 0x31, 0x33,
    0x35, 0x39, 0x3B, 0x3D] ++
  [0x40, 0x41, 0x42, 0x43, 0x44, 0x45, 0x46, 0x47, 0x48, 0x49, 0x4A, 0x4B, 0x4C, 0x4D, 0x4E, 0x4F] ++
  [0x81, 0x83, 0x85, 0x87, 0x89, 0x8B, 0x8D, 0x90, 0x91, 0x92, 0x93, 0x94, 0x95, 0x96, 0x97, 0x98, 0x99, 0xA1, 0xA3, 0xA5,
    0xA7, 0xA9, 0xAB, 0xAD, 0xAF] ++
  [0xB8, 0xB9, 0xBA, 0xBB, 0xBC, 0xBD, 0xBE, 0xBF, 0xC4, 0xC5]

/-- The rows of 30_encoding.md R172, by the opcode and the byte after it (a second opcode byte, or ModR/M with its slot in
bits 5:3). Slot 6 of group 2 and slot 1 of group 3 are no rows (R170). -/
def admitsOperandSize (op m : Byte) : Bool :=
  operandSizeOpcodes.contains op ||
  (op == 0x0F && (m == 0xB2 || m == 0xB4 || m == 0xB5)) ||
  ((op == 0xC1 || op == 0xD1 || op == 0xD3) && m.extractLsb' 3 3 != 6#3) ||
  (op == 0xC7 && m.extractLsb' 3 3 == 0#3) ||
  (op == 0xF7 && m.extractLsb' 3 3 != 1#3) ||
  (op == 0xFF && (m.extractLsb' 3 3 == 0#3 || m.extractLsb' 3 3 == 1#3))

/-- Whether an iteration reads the source element (46_string.md R461, R462, R465). -/
def usesSource : StrOp → Bool
  | .movs | .cmps | .lods => true
  | .scas | .stos => false

/-- Whether an iteration reads or writes the destination element (46_string.md R461-R464). -/
def usesDest : StrOp → Bool
  | .movs | .cmps | .scas | .stos => true
  | .lods => false

/-- The step of the indices: +n, or -n if DF is set (46_string.md R460). -/
def elementStep (w : Width) (s : State) : Word :=
  if s.flags.DF then 0#16 - BitVec.ofNat 16 w.bytes else BitVec.ofNat 16 w.bytes

/-- The address of the j-th source element from `s` on. -/
def sourceElement (w : Width) (ovr : Option SReg) (s : State) (j : Nat) : Nat :=
  s.addr (ovr.getD .ds) (readReg .w16 .si s + BitVec.ofNat 16 j * elementStep w s)

/-- The address of the j-th destination element from `s` on. -/
def destElement (w : Width) (s : State) (j : Nat) : Nat :=
  s.addr .es (readReg .w16 .di s + BitVec.ofNat 16 j * elementStep w s)

/-- Whether every element of the first n iterations lies in memory. -/
def elementsInMemory (f : StringForm) (s : State) (n : Nat) : Prop :=
  ∀ j < n, (usesSource f.op = true → inMemory (sourceElement f.w f.ovr s j) f.w.bytes s) ∧
    (usesDest f.op = true → inMemory (destElement f.w s j) f.w.bytes s)

/-- Whether a repetition ends on these flags although CX is not 0 (46_string.md R470). -/
def repeatEnds (kind : Repeat) (f : Flags) : Prop := (kind = .repz ∧ f.ZF = false) ∨ (kind = .repnz ∧ f.ZF = true)

/-- INC and DEC leave CF alone under `INCDEC_CF = PRESERVED`, NOT leaves every flag alone (41_alu_unary.md). -/
def unaryFlags (op : UnOp) (p : Params) : List FlagName :=
  match op with
  | .not => []
  | .neg => arithFlags
  | .inc | .dec => if p.incDecCf = .preserved then [.OF, .SF, .ZF, .PF] else arithFlags

/-- The flags SAHF writes: those whose bit is set in `AHF_MASK` (44_flag_ops.md R382). -/
def sahfFlags (p : Params) : List FlagName :=
  (if p.ahfMask.getLsbD 0 then [FlagName.CF] else []) ++ (if p.ahfMask.getLsbD 2 then [FlagName.PF] else []) ++
  (if p.ahfMask.getLsbD 4 then [FlagName.AF] else []) ++ (if p.ahfMask.getLsbD 6 then [FlagName.ZF] else []) ++
  (if p.ahfMask.getLsbD 7 then [FlagName.SF] else [])

/-- What one iteration of a string instruction writes (46_string.md R461-R465). -/
def elementWrites (f : StringForm) (s : State) : Writes :=
  match f.op with
  | .movs => { regs := [(.w16, .si), (.w16, .di)], bytes := byteRange (destElement f.w s 0) f.w.bytes }
  | .cmps => { regs := [(.w16, .si), (.w16, .di)], flags := arithFlags }
  | .scas => { regs := [(.w16, .di)], flags := arithFlags }
  | .stos => { regs := [(.w16, .di)], bytes := byteRange (destElement f.w s 0) f.w.bytes }
  | .lods => { regs := [(.w16, .si), (f.w, .ax)] }

/-- What a whole repetition of CX iterations writes (46_string.md R470). -/
def repeatWrites (f : StringForm) (s : State) : Writes :=
  let one := elementWrites f s
  { one with
    regs := (.w16, .cx) :: one.regs
    bytes :=
      match f.op with
      | .movs | .stos =>
        (List.range (readReg .w16 .cx s).toNat).flatMap fun j => byteRange (destElement f.w s j) f.w.bytes
      | .cmps | .scas | .lods => [] }

/-- What a repetition may have written when the element access of iteration j, counted from 0, fails: what j iterations write,
and the bytes of the element that fails (46_string.md R470, 60_exceptions.md R603). -/
def interruptedWrites (f : StringForm) (s : State) (j : Nat) : Writes :=
  let one := elementWrites f s
  { regs := if j = 0 then [] else (.w16, .cx) :: one.regs
    flags := if j = 0 then [] else one.flags
    bytes :=
      match f.op with
      | .movs | .stos => (List.range (j + 1)).flatMap fun l => byteRange (destElement f.w s l) f.w.bytes
      | .cmps | .scas | .lods => [] }

/-- The vector of INT, INT3 and INTO (45_control_transfer.md R440-R442). -/
def interruptVector (i : Instr) : Option Byte :=
  match i with
  | .intIb n => some n
  | .int3 => some 3#8
  | .into => some 4#8
  | _ => none

end Sys2Proof.Machine
end

