-- ==== Sys2Proof/Certificates/Slice0/Obligations.lean ====
section
/-! DEFINITION. The statements for the provers. Each holds for every state, also one no run reaches; where a statement needs
canonical memory it says so. `i` is an instruction, `s` the state it runs in: IP is at its first byte and `k` bytes of it are
fetched, so `s.ipNext` is the offset after its last byte (30_encoding.md R131). -/

section Slice0

open Sys2Proof Sys2Proof.Machine

/-! ## Encoding and decoding -/

/-- Words written out from the spec's encodings decode to the instructions they stand for (the examples of
30_encoding.md R117 and 40-47, with prefixes). -/
def Obligations.DecodeKnownWords : Prop :=
  decode [0x40] = .ok (.incReg .o16 .ax) 1 ∧
  decode [0x4F] = .ok (.decReg .o16 .di) 1 ∧
  decode [0x11, 0xD8] = .ok (.adcEvGv .o16 (.reg .ax) .bx) 2 ∧
  decode [0x8A, 0x40, 0x05] = .ok (.movGbEb .ax (.mem ⟨none, .disp8 .bxSi 0x05⟩)) 3 ∧
  decode [0xC6, 0x06, 0x00, 0x03, 0x7F] = .ok (.movEbIb (.mem ⟨none, .direct 0x0300⟩) 0x7F) 5 ∧
  decode [0xC1, 0xE3, 0x04] = .ok (.shlEvIb .o16 (.reg .bx) 0x04) 3 ∧
  decode [0xF7, 0xF1] = .ok (.divEv .o16 (.reg .cx)) 2 ∧
  decode [0x66, 0x98] = .ok .cwde 2 ∧
  decode [0xF3, 0x26, 0xA4] = .ok (.repMovsb (some .es)) 3 ∧
  decode [0x26, 0xF3, 0xA4] = .ok (.repMovsb (some .es)) 3 ∧
  decode [0xE2, 0xEE] = .ok (.loop 0xEE) 2 ∧
  decode [0xEA, 0x10, 0x00, 0x00, 0x20] = .ok (.jmpFar 0x2000 0x0010) 5 ∧
  decode [0x0F, 0xB2, 0x26, 0x00, 0x03] = .ok (.lssGvMp .o16 .sp ⟨none, .direct 0x0300⟩) 5 ∧
  decode [0xCD, 0x21] = .ok (.intIb 0x21) 2 ∧
  decode [0x9F] = .ok .lahf 1 ∧
  decode [0x8F, 0x07] = .ok (.popEv (.mem ⟨none, .base .bx⟩)) 2

/-- DECODE AND ENCODE AGREE: every well-formed instruction, whatever bytes follow it, is read back whole from its encoding. -/
def Obligations.DecodeEncode : Prop :=
  ∀ (i : Instr) (rest : List Byte), i.wf = true → i.asPrefix = none →
    decode (encode i ++ rest) = .ok i (encode i).length

/-- The other direction, unit by unit: what is decoded is well formed, and its bytes are the bytes read. -/
def Obligations.DecodedUnitReencodes : Prop :=
  ∀ (p : Prefixes) (bs : List Byte) (i : Instr) (n : Nat), decodeUnit p bs = .ok i n →
    i.wf = true ∧ encodeUnit i = bs.take n

/-- 30_encoding.md R112: prefixes in any order and number; the last segment wins, the last of F2 and F3 wins, 0x66 once or more
makes the operand size 32. -/
def Obligations.PrefixesCollectInOrder : Prop :=
  ∀ (qs : List Prefix) (bs : List Byte) (fuel n : Nat),
    let p := qs.foldl Prefixes.collect {}
    decodeUnits (qs.length + fuel) {} (qs.map prefixByte ++ bs) n = decodeUnits fuel p bs (n + qs.length) ∧
    p.segOvr = (qs.filterMap prefixSegment).getLast? ∧
    (p.osz = .o32 ↔ Prefix.opSize ∈ qs) ∧
    p.rep = (qs.filterMap prefixRepeat).getLast?

/-- The refused byte patterns of 30_encoding.md R170, whatever the prefixes: one-byte opcodes, the prefixes F0 and 67, the group
slots, the second bytes of 0F. `m` is the byte after the opcode, its slot the bits 5:3. -/
def Obligations.RefusedEncodings : Prop :=
  ∀ (p : Prefixes) (op m : Byte) (rest : List Byte),
    let slot := m.extractLsb' 3 3
    (op ∈ ([0x27, 0x2F, 0x37, 0x3F, 0x60, 0x61, 0x62, 0x63, 0x68, 0x69, 0x6A, 0x6B, 0x6C, 0x6D, 0x6E, 0x6F, 0x82, 0x9B, 0xC8,
        0xC9, 0xD4, 0xD5, 0xD6, 0xD8, 0xD9, 0xDA, 0xDB, 0xDC, 0xDD, 0xDE, 0xDF, 0xE4, 0xE5, 0xE6, 0xE7, 0xEC, 0xED, 0xEE,
        0xEF, 0xF1, 0xF0, 0x67] : List Byte) →
      decodeUnit p (op :: m :: rest) = .unhandled 1) ∧
    (op ∈ ([0x8F, 0xC6, 0xC7] : List Byte) → slot ≠ 0#3 → decodeUnit p (op :: m :: rest) = .unhandled 2) ∧
    (op ∈ ([0xC0, 0xC1, 0xD0, 0xD1, 0xD2, 0xD3] : List Byte) → slot = 6#3 →
      decodeUnit p (op :: m :: rest) = .unhandled 2) ∧
    (op ∈ ([0xF6, 0xF7] : List Byte) → slot = 1#3 → decodeUnit p (op :: m :: rest) = .unhandled 2) ∧
    (op = 0xFE → slot ≠ 0#3 → slot ≠ 1#3 → decodeUnit p (op :: m :: rest) = .unhandled 2) ∧
    (op = 0xFF → slot = 7#3 → decodeUnit p (op :: m :: rest) = .unhandled 2) ∧
    (op = 0x0F → m ∉ ([0xB2, 0xB4, 0xB5] : List Byte) → decodeUnit p (op :: m :: rest) = .unhandled 2)

/-- 30_encoding.md R171: mod = 11 where memory is required (under 0x66 too, where R172 admits it), segment codes 6 and 7, CS as
the destination of 8E; the same rows are not malformed with any other operand; and nothing else is ever malformed, whatever
the prefixes and the bytes. `b` is a ModR/M byte. -/
def Obligations.MalformedRows : Prop :=
  let mod (b : Byte) := b.extractLsb' 6 2
  let reg (b : Byte) := b.extractLsb' 3 3
  (∀ (seg : Option SReg) (osz : OSize) (b : Byte) (rest : List Byte),
    let p : Prefixes := { segOvr := seg }
    let q : Prefixes := { segOvr := seg, osz := osz }
    (mod b = 3#2 → ∀ op ∈ ([0x8D, 0xC4, 0xC5] : List Byte), decodeUnit q (op :: b :: rest) = .malformed 2) ∧
    (mod b = 3#2 → ∀ op ∈ ([0xB2, 0xB4, 0xB5] : List Byte), decodeUnit q (0x0F :: op :: b :: rest) = .malformed 3) ∧
    (mod b = 3#2 → reg b = 3#3 ∨ reg b = 5#3 → decodeUnit p (0xFF :: b :: rest) = .malformed 2) ∧
    (reg b = 6#3 ∨ reg b = 7#3 → decodeUnit p (0x8C :: b :: rest) = .malformed 2) ∧
    (reg b = 1#3 ∨ reg b = 6#3 ∨ reg b = 7#3 → decodeUnit p (0x8E :: b :: rest) = .malformed 2) ∧
    (mod b ≠ 3#2 → ∀ op ∈ ([0x8D, 0xC4, 0xC5] : List Byte), decodeUnit q (op :: b :: rest) ≠ .malformed 2) ∧
    (mod b ≠ 3#2 → ∀ op ∈ ([0xB2, 0xB4, 0xB5] : List Byte), decodeUnit q (0x0F :: op :: b :: rest) ≠ .malformed 3) ∧
    (mod b ≠ 3#2 → decodeUnit p (0xFF :: b :: rest) ≠ .malformed 2) ∧
    (reg b ≠ 6#3 → reg b ≠ 7#3 → decodeUnit p (0x8C :: b :: rest) ≠ .malformed 2) ∧
    (reg b ≠ 1#3 → reg b ≠ 6#3 → reg b ≠ 7#3 → decodeUnit p (0x8E :: b :: rest) ≠ .malformed 2)) ∧
  (∀ (p : Prefixes) (bs : List Byte) (n : Nat), decodeUnit p bs = .malformed n →
    p.rep = none ∧ ∃ (op b : Byte) (rest : List Byte),
      (n = 3 ∧ bs = 0x0F :: op :: b :: rest ∧ op ∈ ([0xB2, 0xB4, 0xB5] : List Byte) ∧ mod b = 3#2) ∨
      (n = 2 ∧ bs = op :: b :: rest ∧
        ((op ∈ ([0x8D, 0xC4, 0xC5] : List Byte) ∧ mod b = 3#2) ∨
          (p.osz = .o16 ∧
            ((op = 0xFF ∧ mod b = 3#2 ∧ (reg b = 3#3 ∨ reg b = 5#3)) ∨ (op = 0x8C ∧ (reg b = 6#3 ∨ reg b = 7#3)) ∨
              (op = 0x8E ∧ (reg b = 1#3 ∨ reg b = 6#3 ∨ reg b = 7#3)))))))

/-- 30_encoding.md R172: under 0x66 exactly the listed rows are read, at width 32; every other row raises UnhandledOpcode. -/
def Obligations.OperandSizeRows : Prop :=
  ∀ (seg : Option SReg) (op m : Byte) (rest : List Byte), 8 ≤ rest.length → op ∉ prefixBytes →
    let d := decodeUnit { segOvr := seg, osz := .o32 } (op :: m :: rest)
    (admitsOperandSize op m = true →
      (∃ i n, d = .ok i n ∧ i.prefixes.osz = .o32) ∨ ∃ n, d = .malformed n) ∧
    (admitsOperandSize op m = false → ∃ n, d = .unhandled n)

/-- 30_encoding.md R115, 46_string.md R471: F3 and F2 are read before the string opcodes named there, with the repetition named
there, and before no other opcode. Under 0x66 too: then only the string rows of 16 bits, at width 32, are read (30_encoding.md
R172), and the byte strings and every other row are UnhandledOpcode. -/
def Obligations.RepetitionRows : Prop :=
  ∀ (seg : Option SReg) (osz : OSize) (op b1 b2 : Byte) (rest : List Byte),
    let z := decodeUnit { segOvr := seg, osz := osz, rep := some .z } (op :: b1 :: b2 :: rest)
    let nz := decodeUnit { segOvr := seg, osz := osz, rep := some .nz } (op :: b1 :: b2 :: rest)
    let moving : List Byte := if osz = .o16 then [0xA4, 0xA5, 0xAA, 0xAB, 0xAC, 0xAD] else [0xA5, 0xAB, 0xAD]
    let comparing : List Byte := if osz = .o16 then [0xA6, 0xA7, 0xAE, 0xAF] else [0xA7, 0xAF]
    let reads (d : Decoded) (kind : Repeat) : Prop :=
      ∃ i f, d = .ok i 1 ∧ repeatForm i = some f ∧ f.kind = kind ∧ f.w = (if op.getLsbD 0 then osz.width else .w8)
    (op ∈ moving → reads z .rep ∧ nz = .unhandled 1) ∧
    (op ∈ comparing → reads z .repz ∧ reads nz .repnz) ∧
    (op ∉ moving → op ∉ comparing → op ∉ prefixBytes → (∃ n, z = .unhandled n) ∧ ∃ n, nz = .unhandled n)

/-- 30_encoding.md R116: an instruction has 1 to 15 bytes, no byte past the 15th is looked at, and whenever decoding the first 15
would need another byte (after prefixes alone, or inside opcode, ModR/M, displacement or immediate) it is UnhandledOpcode. -/
def Obligations.LengthLimit : Prop :=
  ∀ bs : List Byte,
    (∀ i n, decode bs = .ok i n → 1 ≤ n ∧ n ≤ 15 ∧ n ≤ bs.length) ∧
    (15 ≤ bs.length → (∀ n, decode bs ≠ .short n) ∧ decode bs = decode (bs.take 15)) ∧
    (∀ n, 15 ≤ bs.length → decodeUnits maxLength {} (bs.take 15) 0 = .short n → decode bs = .unhandled 15) ∧
    (∀ qs : List Prefix, qs.length = 15 → decode (qs.map prefixByte ++ bs) = .unhandled 15) ∧
    (∀ qs : List Prefix, qs.length = 14 → ∀ op ∈ ([0x0F, 0x8B, 0xF7, 0xCD, 0xE9] : List Byte),
      decode (qs.map prefixByte ++ op :: bs) = .unhandled 15)

/-- 30_encoding.md R124, R125 with the rows of R122: the effective address of each form, modulo 0x10000, and its segment. -/
def Obligations.EffectiveAddress : Prop :=
  ∀ (s : State) (o : Option SReg) (d8 : Byte) (d16 : Word),
    let bx := readReg .w16 .bx s
    let bp := readReg .w16 .bp s
    let si := readReg .w16 .si s
    let di := readReg .w16 .di s
    let ea (f : MemForm) := memAddress ⟨o, f⟩ s
    let rows : List (EABase × Word) :=
      [(.bxSi, bx + si), (.bxDi, bx + di), (.bpSi, bp + si), (.bpDi, bp + di), (.si, si), (.di, di), (.bp, bp), (.bx, bx)]
    (∀ r ∈ rows, ea (.base r.1) = r.2 ∧ ea (.disp8 r.1 d8) = r.2 + d8.signExtend 16 ∧ ea (.disp16 r.1 d16) = r.2 + d16) ∧
    ea (.direct d16) = d16 ∧
    (∀ (r : SReg) (f : MemForm), memSeg ⟨some r, f⟩ s.params = r) ∧
    memSeg ⟨none, .direct d16⟩ s.params = .ds ∧
    (∀ b : EABase, ∀ f ∈ [MemForm.base b, .disp8 b d8, .disp16 b d16],
      memSeg ⟨none, f⟩ s.params =
        if s.params.bpDefaultSeg = .ss ∧ (b = .bpSi ∨ b = .bpDi ∨ b = .bp) then .ss else .ds)

/-! ## The step -/

/-- A STEP RUNS THE DECODED INSTRUCTION: when the bytes at CS:IP decode to an instruction of m bytes without prefixes, the step
is the instruction's meaning with m bytes fetched, the decoder state cleared after it. -/
def Obligations.StepRunsDecoded : Prop :=
  ∀ (s : State) (i : Instr) (m : Nat), s.running → i.asPrefix = none →
    decodeUnit {} (fetchWindow s.beginInstr) = .ok i m →
    step s = finish (exec i { s with pre := {}, k := m })

/-- The same for an instruction with its prefixes: one step, under the prefixes read, `n` bytes long. -/
def Obligations.StepRunsPrefixed : Prop :=
  ∀ (s : State) (i : Instr) (n : Nat), s.running → decode (fetchWindow s.beginInstr) = .ok i n →
    let p := prefixesRead maxLength {} (fetchWindow s.beginInstr)
    step s = finish (exec i { s with pre := p, k := n })

/-- Decode faults and fetch faults: the mark with its record, everything else as before the instruction (60_exceptions.md R601,
R603, R604). What the record's datum holds is the model's reading: the width 1 and the one byte's address of a fetch fault log
entry 14, the list of bytes of a decode fault log entry 15. -/
def Obligations.DecodeFaultsLeaveState : Prop :=
  ∀ (s : State) (n : Nat), s.running →
    let bytes := fetchWindow s.beginInstr
    (decode bytes = .unhandled n → step s = .next (faultState (.unhandledOpcode (bytes.take n)) s)) ∧
    (decode bytes = .malformed n → step s = .next (faultState (.malformedInstruction (bytes.take n)) s)) ∧
    (decode bytes = .short n →
      step s = .next (faultState (.memoryFault (phys s.sreg.cs (s.ip + BitVec.ofNat 16 n)) 1 .fetch) s))

/-- 10_state.md R46: no step from a halted or faulted core; nothing of the decoder survives a step; only HLT halts; a running
core with no claimed vector has a step, and otherwise the one way not to have one is a host service that blocks (the last clause
rests on log entry 9). -/
def Obligations.RunStateMarks : Prop :=
  ∀ s : State,
    (¬ s.running → ∀ t, step s ≠ .next t) ∧
    (∀ t, step s = .next t → t.pre = {} ∧ t.k = 0) ∧
    (∀ t, step s = .next t → t.halted = true → ∃ n, decode (fetchWindow s.beginInstr) = .ok .hlt n) ∧
    (s.running → s.params.hostInt = [] → ∃ t, step s = .next t) ∧
    (s.running → (∃ t, step s = .next t) ∨ ∃ v ∈ s.params.hostInt, step s = .fault (.serviceBlocked v))

/-- AN INVARIANT THAT EVERY STEP KEEPS: canonical memory below `MEM_SIZE`, no decoder state between steps, never halted and
faulted at once; and the parameters are constant. -/
def Obligations.StepKeepsInvariant : Prop :=
  ∀ s t : State, s.Inv → step s = .next t → t.Inv ∧ t.params = s.params

/-- The invariant holds after reset. -/
def Obligations.ResetInvariant : Prop := State.reset.Inv

/-- 70_reset_and_hazards.md R700: the `INIT_STATE` default of every item, which the model takes as its reset (log entry 2). -/
def Obligations.ResetState : Prop :=
  let s := State.reset
  (∀ r : Reg, s.gpr.get r = 0#32) ∧ (∀ r : SReg, s.sreg.get r = 0#16) ∧ s.ip = 0#16 ∧
  (∀ f : FlagName, s.flags.get f = false) ∧ s.flags.image = 0#16 ∧
  (∀ p, Memory.read s.mem p = 0#8) ∧
  s.pre = { segOvr := none, osz := .o16, rep := none } ∧ s.halted = false ∧ s.fault = none

/-- Fault entry (60_exceptions.md R602, R604): a step that ends in a fault records CS and the offset of its first byte, leaves IP
there, clears the decoder state and halts nothing. That the recorded CS is the one of the start also where IRET has popped
another before it faults is the model's choice (log entry 13): R604 names only CS. -/
def Obligations.FaultEntry : Prop :=
  ∀ (s t : State) (r : FaultRecord), step s = .next t → t.fault = some r →
    r.cs = s.sreg.cs ∧ r.ip = s.ip ∧ t.ip = s.ip ∧ t.pre = {} ∧ t.k = 0 ∧ t.halted = false

/-- A fault on a read that comes before any write leaves everything but the mark as it was, and the record names the address, the
width and the kind of access (60_exceptions.md R601, R603; 20_memory.md R74): the operand reads of every family, both words of
a far pointer, both elements of CMPS, a repetition's first iteration, the first pop. -/
def Obligations.FirstReadFault : Prop :=
  ∀ (i : Instr) (s : State),
    let answers (p n : Nat) : Prop := ¬ inMemory p n s → exec i s = .next (faultState (.memoryFault p n .read) s)
    (∀ f, binaryForm i s = some f → ¬ accessible f.w f.dst s → exec i s = .next (readFaulted f.w f.dst s)) ∧
    (∀ f, binaryForm i s = some f → accessible f.w f.dst s → ¬ accessible f.w f.src s →
      exec i s = .next (readFaulted f.w f.src s)) ∧
    (∀ f, testForm i s = some f → ¬ accessible f.w f.dst s → exec i s = .next (readFaulted f.w f.dst s)) ∧
    (∀ f, unaryForm i s = some f → ¬ accessible f.w f.dst s → exec i s = .next (readFaulted f.w f.dst s)) ∧
    (∀ f, mulDivForm i s = some f → ¬ accessible f.w f.src s → exec i s = .next (readFaulted f.w f.src s)) ∧
    (∀ f, shiftForm i s = some f → ¬ accessible f.w f.dst s → exec i s = .next (readFaulted f.w f.dst s)) ∧
    (∀ f, moveForm i s = some f → ¬ accessible f.w f.src s → exec i s = .next (readFaulted f.w f.src s)) ∧
    (∀ f, exchangeForm i s = some f → ¬ accessible f.w f.dst s → exec i s = .next (readFaulted f.w f.dst s)) ∧
    (∀ op, pushForm i s = some op → ¬ accessible .w16 op s → exec i s = .next (readFaulted .w16 op s)) ∧
    (∀ e, i = .jmpEv e ∨ i = .callEv e → ¬ accessible .w16 (operandOf e s) s →
      exec i s = .next (readFaulted .w16 (operandOf e s) s)) ∧
    (∀ m, i = .jmpMp m ∨ i = .callMp m →
      let p := s.addr (memSeg m s.params) (memAddress m s)
      answers p 2 ∧ (inMemory p 2 s → answers (s.addr (memSeg m s.params) (memAddress m s + 2#16)) 2)) ∧
    (∀ f, farLoadForm i = some f →
      let p := s.addr (memSeg f.m s.params) (memAddress f.m s)
      answers p f.o.width.bytes ∧
      (inMemory p f.o.width.bytes s →
        answers (s.addr (memSeg f.m s.params) (memAddress f.m s + BitVec.ofNat 16 f.o.width.bytes)) 2)) ∧
    (∀ ovr : Option SReg, i = .xlat ovr →
      answers (s.addr (ovr.getD .ds) (readReg .w16 .bx s + (readReg .w8 .ax s).setWidth 16)) 1) ∧
    (∀ f : StringForm,
      stringForm i = some f ∨ (readReg .w16 .cx s ≠ 0#16 ∧ ∃ g, repeatForm i = some g ∧ g.toStringForm = f) →
      let src := s.addr (f.ovr.getD .ds) (readReg .w16 .si s)
      let dst := s.addr .es (readReg .w16 .di s)
      (usesSource f.op = true → answers src f.w.bytes) ∧
      (f.op = .cmps → inMemory src f.w.bytes s → answers dst f.w.bytes) ∧ (f.op = .scas → answers dst f.w.bytes)) ∧
    (popForm i s ≠ none ∨ i ∈ [Instr.popf, .ret, .retf, .iret] ∨ (∃ n, i = .retIw n ∨ i = .retfIw n) →
      answers (popAddr s 0) 2)

/-! ## Registers, memory, flags -/

/-- 10_state.md R32 and R33: a write changes the bits of its view only; AX, BX, CX, DX are their two bytes. -/
def Obligations.RegisterViews : Prop :=
  (∀ (w : Width) (r : Reg) (v : BitVec w.bits) (s : State),
    readReg w r (writeReg w r v s) = v ∧
    (∀ (q : Reg) (b : Nat), ¬ viewCovers (w, r) q b →
      ((writeReg w r v s).gpr.get q).getLsbD b = (s.gpr.get q).getLsbD b)) ∧
  (∀ (s : State) (v : Word) (h l : Byte),
    ∀ x ∈ [(Reg.ax, Reg.sp), (Reg.cx, Reg.bp), (Reg.dx, Reg.si), (Reg.bx, Reg.di)],
      readReg .w8 x.2 (writeReg .w16 x.1 v s) = (v >>> 8).setWidth 8 ∧
      readReg .w8 x.1 (writeReg .w16 x.1 v s) = v.setWidth 8 ∧
      readReg .w16 x.1 (writeReg .w8 x.1 l (writeReg .w8 x.2 h s)) = h ++ l)

/-- 20_memory.md R74: the bound, the little-endian order and the bytes touched, for reads and writes of every width. -/
def Obligations.MemoryAccess : Prop :=
  ∀ (w : Width) (p : Nat) (v : BitVec w.bits) (s : State),
    (s.params.memSize ≤ p + w.bytes - 1 →
      memRead w p s = .error (.memoryFault p w.bytes .read) ∧
      memWrite w p v s = .error (.memoryFault p w.bytes .write)) ∧
    (p + w.bytes - 1 < s.params.memSize →
      (∃ x, memRead w p s = .ok x ∧ ∀ j < w.bytes, x.extractLsb' (8 * j) 8 = Memory.read s.mem (p + j)) ∧
      (Memory.wf s.mem → ∃ t, memWrite w p v s = .ok t ∧ t = s.setMem t.mem ∧
        ∀ a, Memory.read t.mem a =
          if p ≤ a ∧ a < p + w.bytes then v.extractLsb' (8 * (a - p)) 8 else Memory.read s.mem a))

/-- 10_state.md R41: the image, bit by bit, and writing it. -/
def Obligations.FlagsImage : Prop :=
  ∀ (f : Flags) (v : Word),
    f.image.getLsbD 11 = f.OF ∧ f.image.getLsbD 10 = f.DF ∧ f.image.getLsbD 9 = f.IF ∧ f.image.getLsbD 8 = f.TF ∧
    f.image.getLsbD 7 = f.SF ∧ f.image.getLsbD 6 = f.ZF ∧ f.image.getLsbD 4 = f.AF ∧ f.image.getLsbD 2 = f.PF ∧
    f.image.getLsbD 0 = f.CF ∧
    (∀ b ∈ [1, 3, 5, 12, 13, 14, 15], f.image.getLsbD b = false) ∧
    (Flags.ofImage v).image = v &&& 0x0FD5#16 ∧ Flags.ofImage f.image = f

/-- 40_alu_binary.md R202, R203 and R209: result, carry or borrow, signed overflow by the signs, and the result flags of R201. -/
def Obligations.AddAndSubtractHelpers : Prop :=
  ∀ (w : Width) (a b : BitVec w.bits) (c : Bool) (f : Flags),
    let n := w.bits
    let add := updateADD a b c f
    let sub := updateSUB a b c f
    let even (r : BitVec n) := ((List.range 8).filter fun j => r.getLsbD j).length % 2 = 0
    add.1.toNat = (a.toNat + b.toNat + c.toNat) % 2 ^ n ∧
    (add.2.CF = true ↔ 2 ^ n ≤ a.toNat + b.toNat + c.toNat) ∧
    (add.2.OF = true ↔ a.msb = b.msb ∧ add.1.msb ≠ a.msb) ∧
    sub.1.toNat = (a.toNat + 2 ^ (n + 1) - b.toNat - c.toNat) % 2 ^ n ∧
    (sub.2.CF = true ↔ a.toNat < b.toNat + c.toNat) ∧
    (sub.2.OF = true ↔ a.msb ≠ b.msb ∧ sub.1.msb ≠ a.msb) ∧
    (∀ x ∈ [add, sub],
      x.2.SF = x.1.getLsbD (n - 1) ∧ (x.2.ZF = true ↔ x.1.toNat = 0) ∧ (x.2.PF = true ↔ even x.1) ∧
      x.2.AF = f.AF ∧ x.2.TF = f.TF ∧ x.2.IF = f.IF ∧ x.2.DF = f.DF) ∧
    compareFlags a b f = (updateSUB a b false f).2

/-- 40_alu_binary.md R204, R205, R206 and R212: AND keeps the source's CF and OF, which are `a = b = 0` and never. -/
def Obligations.LogicHelpers : Prop :=
  ∀ (w : Width) (a b : BitVec w.bits) (f : Flags),
    let n := w.bits
    let and (p : AndFlagPolicy) := updateAND p a b f
    let even (r : BitVec n) := ((List.range 8).filter fun j => r.getLsbD j).length % 2 = 0
    (∀ p, (and p).1 = a &&& b) ∧ (updateOR a b f).1 = a ||| b ∧ (updateXOR a b f).1 = a ^^^ b ∧
    ((and .source).2.CF = true ↔ (a &&& b).toNat = a.toNat + b.toNat) ∧
    ((and .source).2.OF = true ↔ a.toNat + b.toNat < (a &&& b).toNat) ∧
    ((and .source).2.CF = true ↔ a = 0#n ∧ b = 0#n) ∧ (and .source).2.OF = false ∧
    (∀ x ∈ [and .x86, updateOR a b f, updateXOR a b f], x.2.CF = false ∧ x.2.OF = false) ∧
    (∀ x ∈ [and .source, and .x86, updateOR a b f, updateXOR a b f],
      x.2.SF = x.1.getLsbD (n - 1) ∧ (x.2.ZF = true ↔ x.1.toNat = 0) ∧ (x.2.PF = true ↔ even x.1) ∧
      x.2.AF = f.AF ∧ x.2.TF = f.TF ∧ x.2.IF = f.IF ∧ x.2.DF = f.DF)

/-- 40_alu_binary.md R207 and R208: increment and decrement, with CF written or preserved by `INCDEC_CF`; they agree with adding
and subtracting 1. -/
def Obligations.IncrementHelpers : Prop :=
  ∀ (w : Width) (a : BitVec w.bits) (f : Flags),
    let n := w.bits
    let inc (p : IncDecCf) := updateINC p a f
    let dec (p : IncDecCf) := updateDEC p a f
    let even (r : BitVec n) := ((List.range 8).filter fun j => r.getLsbD j).length % 2 = 0
    (∀ p, (inc p).1.toNat = (a.toNat + 1) % 2 ^ n ∧ ((inc p).2.OF = true ↔ a.toNat = 2 ^ (n - 1) - 1) ∧
      (dec p).1.toNat = (a.toNat + 2 ^ n - 1) % 2 ^ n ∧ ((dec p).2.OF = true ↔ a.toNat = 2 ^ (n - 1))) ∧
    ((inc .written).2.CF = true ↔ a.toNat = 2 ^ n - 1) ∧ (inc .preserved).2.CF = f.CF ∧
    ((dec .written).2.CF = true ↔ a.toNat = 0) ∧ (dec .preserved).2.CF = f.CF ∧
    inc .written = updateADD a 1#n false f ∧ dec .written = updateSUB a 1#n false f ∧
    (∀ x ∈ [inc .written, inc .preserved, dec .written, dec .preserved],
      x.2.SF = x.1.getLsbD (n - 1) ∧ (x.2.ZF = true ↔ x.1.toNat = 0) ∧ (x.2.PF = true ↔ even x.1) ∧
      x.2.AF = f.AF ∧ x.2.TF = f.TF ∧ x.2.IF = f.IF ∧ x.2.DF = f.DF)

/-! ## Arithmetic: results -/

/-- ADD, OR, ADC, SBB, AND, SUB, XOR, CMP in every form (40_alu_binary.md R215-R223): the helper of the mnemonic on the two
operands gives the flags and, but for CMP, the destination. -/
def Obligations.BinaryAluResult : Prop :=
  ∀ (i : Instr) (s : State) (f : BinaryForm), binaryForm i s = some f →
    accessible f.w f.dst s → accessible f.w f.src s →
    let a := valueOf f.w f.dst s
    let b := valueOf f.w f.src s
    let write (x : BitVec f.w.bits × Flags) := (stored f.w f.dst x.1 (s.setFlags x.2)).setIp s.ipNext
    exec i s = .next
      (match f.op with
       | .add => write (updateADD a b false s.flags)
       | .adc => write (updateADD a b s.flags.CF s.flags)
       | .sub => write (updateSUB a b false s.flags)
       | .sbb => write (updateSUB a b s.flags.CF s.flags)
       | .and => write (updateAND s.params.andFlagPolicy a b s.flags)
       | .or => write (updateOR a b s.flags)
       | .xor => write (updateXOR a b s.flags)
       | .cmp => (s.setFlags (updateSUB a b false s.flags).2).setIp s.ipNext)

/-- TEST (R224) writes the flags of AND alone; INC, DEC, NEG write flags and operand, NOT the operand alone
(41_alu_unary.md R250-R253). -/
def Obligations.TestAndUnaryResult : Prop :=
  ∀ (i : Instr) (s : State),
    (∀ f, testForm i s = some f → accessible f.w f.dst s → accessible f.w f.src s →
      exec i s = .next
        ((s.setFlags (updateAND s.params.andFlagPolicy (valueOf f.w f.dst s) (valueOf f.w f.src s) s.flags).2).setIp
          s.ipNext)) ∧
    (∀ f, unaryForm i s = some f → accessible f.w f.dst s →
      let a := valueOf f.w f.dst s
      let write (x : BitVec f.w.bits × Flags) := (stored f.w f.dst x.1 (s.setFlags x.2)).setIp s.ipNext
      exec i s = .next
        (match f.op with
         | .inc => write (updateINC s.params.incDecCf a s.flags)
         | .dec => write (updateDEC s.params.incDecCf a s.flags)
         | .neg => write (updateSUB 0#f.w.bits a false s.flags)
         | .not => (stored f.w f.dst (a ^^^ BitVec.allOnes f.w.bits) s).setIp s.ipNext))

/-- MUL and IMUL (42_muldiv.md R300, R301): the double-width product in the accumulator pair, CF = OF = it does not fit. -/
def Obligations.MultiplyResult : Prop :=
  ∀ (i : Instr) (s : State) (f : MulDivForm), mulDivForm i s = some f → accessible f.w f.src s →
    let n := f.w.bits
    let acc := readReg f.w .ax s
    let a := valueOf f.w f.src s
    let answer (p : BitVec (n + n)) (c : Bool) :=
      ((writeReg f.w (accHigh f.w) (p.extractLsb' n n) (writeReg f.w .ax (p.extractLsb' 0 n) s)).setFlags
        { s.flags with CF := c, OF := c }).setIp s.ipNext
    (f.op = .mul →
      exec i s = .next (answer (BitVec.ofNat (n + n) (acc.toNat * a.toNat)) (decide (2 ^ n ≤ acc.toNat * a.toNat)))) ∧
    (f.op = .imul →
      let p := acc.toInt * a.toInt
      exec i s = .next
        (answer (BitVec.ofInt (n + n) p) (decide (p < -(2 : Int) ^ (n - 1) ∨ (2 : Int) ^ (n - 1) - 1 < p))))

/-- DIV and IDIV (42_muldiv.md R302, R303) with a divisor that is not 0 and a quotient that fits: quotient and remainder, no
flag. -/
def Obligations.DivideResult : Prop :=
  ∀ (i : Instr) (s : State) (f : MulDivForm), mulDivForm i s = some f → accessible f.w f.src s →
    let n := f.w.bits
    let d := valueOf f.w f.src s
    let x : BitVec (n + n) := readReg f.w (accHigh f.w) s ++ readReg f.w .ax s
    let answer (q r : BitVec n) := (writeReg f.w (accHigh f.w) r (writeReg f.w .ax q s)).setIp s.ipNext
    (f.op = .div → d.toNat ≠ 0 → x.toNat / d.toNat < 2 ^ n →
      exec i s = .next (answer (BitVec.ofNat n (x.toNat / d.toNat)) (BitVec.ofNat n (x.toNat % d.toNat)))) ∧
    (f.op = .idiv → d.toInt ≠ 0 → -(2 : Int) ^ (n - 1) ≤ x.toInt.tdiv d.toInt →
      x.toInt.tdiv d.toInt ≤ (2 : Int) ^ (n - 1) - 1 →
      exec i s = .next (answer (BitVec.ofInt n (x.toInt.tdiv d.toInt)) (BitVec.ofInt n (x.toInt.tmod d.toInt))))

/-- DIV and IDIV raise DivideError for divisor 0 and for a quotient that does not fit, before any write: only the mark is set
(42_muldiv.md R302, R303; 60_exceptions.md R603). From an unfaulted state they raise no fault with any other operands. -/
def Obligations.DivideErrors : Prop :=
  ∀ (i : Instr) (s : State) (f : MulDivForm), mulDivForm i s = some f → accessible f.w f.src s →
    let n := f.w.bits
    let d := valueOf f.w f.src s
    let x : BitVec (n + n) := readReg f.w (accHigh f.w) s ++ readReg f.w .ax s
    let faults : Prop := s.fault = none ∧ ∃ t, exec i s = .next t ∧ t.fault ≠ none
    (f.op = .div → d.toNat = 0 ∨ 2 ^ n ≤ x.toNat / d.toNat → exec i s = .next (faultState .divideError s)) ∧
    (f.op = .idiv →
      d.toInt = 0 ∨ x.toInt.tdiv d.toInt < -(2 : Int) ^ (n - 1) ∨ (2 : Int) ^ (n - 1) ≤ x.toInt.tdiv d.toInt →
      exec i s = .next (faultState .divideError s)) ∧
    (f.op = .div → faults → d.toNat = 0 ∨ 2 ^ n ≤ x.toNat / d.toNat) ∧
    (f.op = .idiv → faults →
      d.toInt = 0 ∨ x.toInt.tdiv d.toInt < -(2 : Int) ^ (n - 1) ∨ (2 : Int) ^ (n - 1) ≤ x.toInt.tdiv d.toInt)

/-- CBW, CWDE, CWD, CDQ (42_muldiv.md R304, R305): the bytes, the register written, nothing else. -/
def Obligations.SignExtension : Prop :=
  ∀ s : State,
    decode [0x98] = .ok .cbw 1 ∧ decode [0x66, 0x98] = .ok .cwde 2 ∧
    decode [0x99] = .ok .cwd 1 ∧ decode [0x66, 0x99] = .ok .cdq 2 ∧
    exec .cbw s = .next ((writeReg .w16 .ax ((readReg .w8 .ax s).signExtend 16) s).setIp s.ipNext) ∧
    exec .cwde s = .next ((writeReg .w32 .ax ((readReg .w16 .ax s).signExtend 32) s).setIp s.ipNext) ∧
    exec .cwd s =
      .next ((writeReg .w16 .dx (if (readReg .w16 .ax s).getLsbD 15 then 0xFFFF#16 else 0#16) s).setIp s.ipNext) ∧
    exec .cdq s =
      .next ((writeReg .w32 .dx (if (readReg .w32 .ax s).getLsbD 31 then 0xFFFFFFFF#32 else 0#32) s).setIp s.ipNext)

/-- Shifts and rotates in every form (43_shift_rotate.md R330): nothing but IP for a masked count 0 or an unchanged operand; else
the operation's result and CF, its OF for count 1 and any OF above, and for a shift SF, ZF, PF of the result. For RCL under
UNSPECIFIED result and CF are any values too. No clause rests on a free value's value (log entry 12). -/
def Obligations.ShiftResult : Prop :=
  ∀ (i : Instr) (s : State) (f : ShiftForm), shiftForm i s = some f → accessible f.w f.dst s →
    let c := f.count.toNat % 32
    let out := f.op.apply s.params.rclMultiBit (valueOf f.w f.dst s) c s.flags.CF
    let answer (r : BitVec f.w.bits) (cf of : Bool) (d : Nat) :=
      (({ stored f.w f.dst r s with draws := d }).setFlags
        (if f.op.isShift then ({ s.flags with CF := cf, OF := of }).szp r else { s.flags with CF := cf, OF := of })).setIp
        s.ipNext
    (c = 0 → exec i s = .next (s.setIp s.ipNext)) ∧
    (c ≠ 0 → out = .unchanged → exec i s = .next (s.setIp s.ipNext)) ∧
    (c ≠ 0 → ∀ r cf of, out = .value r cf of →
      ∃ v d, (c = 1 → v = of ∧ d = s.draws) ∧ exec i s = .next (answer r cf v d)) ∧
    (c ≠ 0 → out = .anyValue → ∃ r cf v d, exec i s = .next (answer r cf v d))

/-- What SHL, SHR, SAR, ROL, ROR compute for a masked count (43_shift_rotate.md R331-R335): shifts as multiplication and floor
division by 2^c, rotates bit by bit; CF and the OF of count 1. -/
def Obligations.ShiftValues : Prop :=
  ∀ (w : Width) (mode : RclMultiBit) (a : BitVec w.bits) (c : Nat) (cf : Bool), 1 ≤ c → c < 32 →
    let n := w.bits
    let r := BitVec.ofNat n (a.toNat * 2 ^ c)
    let out := decide (c ≤ n) && a.getLsbD (n - c)
    ShiftOp.apply .shl mode a c cf = .value r out (r.msb != out) ∧
    ShiftOp.apply .shr mode a c cf =
      .value (BitVec.ofNat n (a.toNat / 2 ^ c)) (decide (c ≤ n) && a.getLsbD (c - 1)) a.msb ∧
    ShiftOp.apply .sar mode a c cf =
      .value (BitVec.ofInt n (a.toInt / 2 ^ c)) (if c ≤ n then a.getLsbD (c - 1) else a.msb) false ∧
    (∃ x, ShiftOp.apply .rol mode a c cf = .value x (x.getLsbD 0) (x.msb != x.getLsbD 0) ∧
      ∀ j < n, x.getLsbD ((j + c) % n) = a.getLsbD j) ∧
    (∃ x, ShiftOp.apply .ror mode a c cf = .value x x.msb (x.msb != x.getLsbD (n - 2)) ∧
      ∀ j < n, x.getLsbD j = a.getLsbD ((j + c) % n))

/-- RCL and RCR rotate the (w+1)-bit value CF:a as a whole by c' (43_shift_rotate.md R336, R337), and RCR by c' undoes RCL by
c'; under UNSPECIFIED, RCL by c' > 1 gives any value. -/
def Obligations.CarryRotates : Prop :=
  ∀ (w : Width) (a : BitVec w.bits) (c : Nat) (cf : Bool), 1 ≤ c → c < 32 →
    let n := w.bits
    let c' := if n = 32 then c else c % (n + 1)
    let whole : BitVec (1 + n) := BitVec.ofBool cf ++ a
    (c' = 0 → ∀ mode, ShiftOp.apply .rcl mode a c cf = .unchanged ∧ ShiftOp.apply .rcr mode a c cf = .unchanged) ∧
    (c' ≠ 0 → ∃ r f, BitVec.ofBool f ++ r = whole.rotateLeft c' ∧
      ShiftOp.apply .rcl .iterated a c cf = .value r f (r.msb != f) ∧
      (c' = 1 → ShiftOp.apply .rcl .unspecified a c cf = .value r f (r.msb != f)) ∧
      ∃ of, ShiftOp.apply .rcr .iterated r c f = .value a cf of) ∧
    (1 < c' → ShiftOp.apply .rcl .unspecified a c cf = .anyValue) ∧
    (c' ≠ 0 → ∀ mode, ∃ r f, BitVec.ofBool f ++ r = whole.rotateRight c' ∧
      ShiftOp.apply .rcr mode a c cf = .value r f (r.msb != r.getLsbD (n - 2)))

/-! ## Flag instructions: results -/

/-- CLC, STC, CMC, CLD, STD, CLI, STI (44_flag_ops.md R370-R376): the byte, and the one flag written. -/
def Obligations.FlagInstructions : Prop :=
  ∀ s : State,
    decode [0xF8] = .ok .clc 1 ∧ exec .clc s = .next ((s.setFlags { s.flags with CF := false }).setIp s.ipNext) ∧
    decode [0xF9] = .ok .stc 1 ∧ exec .stc s = .next ((s.setFlags { s.flags with CF := true }).setIp s.ipNext) ∧
    decode [0xF5] = .ok .cmc 1 ∧ exec .cmc s = .next ((s.setFlags { s.flags with CF := !s.flags.CF }).setIp s.ipNext) ∧
    decode [0xFC] = .ok .cld 1 ∧ exec .cld s = .next ((s.setFlags { s.flags with DF := false }).setIp s.ipNext) ∧
    decode [0xFD] = .ok .std 1 ∧ exec .std s = .next ((s.setFlags { s.flags with DF := true }).setIp s.ipNext) ∧
    decode [0xFA] = .ok .cli 1 ∧ exec .cli s = .next ((s.setFlags { s.flags with IF := false }).setIp s.ipNext) ∧
    decode [0xFB] = .ok .sti 1 ∧ exec .sti s = .next ((s.setFlags { s.flags with IF := true }).setIp s.ipNext)

/-- LAHF, SAHF, PUSHF, POPF (44_flag_ops.md R381-R384): transfers under `AHF_MASK`, and the image pushed and popped. -/
def Obligations.FlagTransfers : Prop :=
  ∀ s : State,
    let mask := s.params.ahfMask
    let ah := readReg .w8 .sp s
    let pick (b : Nat) (old : Bool) := if mask.getLsbD b then ah.getLsbD b else old
    exec .lahf s = .next ((writeReg .w8 .sp (s.flags.image.setWidth 8 &&& mask) s).setIp s.ipNext) ∧
    exec .sahf s =
      .next ((s.setFlags { s.flags with CF := pick 0 s.flags.CF, PF := pick 2 s.flags.PF, AF := pick 4 s.flags.AF,
                                        ZF := pick 6 s.flags.ZF, SF := pick 7 s.flags.SF }).setIp s.ipNext) ∧
    (inMemory (pushAddr s 1) 2 s → exec .pushf s = .next ((pushed s.flags.image s).setIp s.ipNext)) ∧
    (inMemory (popAddr s 0) 2 s →
      exec .popf s =
        .next (((writeReg .w16 .sp (s.sp + 2#16) s).setFlags (Flags.ofImage (wordAt s (popAddr s 0)))).setIp s.ipNext))

/-! ## Control transfer: results -/

/-- The sixteen conditional jumps (45_control_transfer.md R400, R402-R418): the flag predicate of each, the target
`IP_next + sext16(cb)` modulo 0x10000, nothing else changed. JCXZ, LOOP, LOOPE, LOOPNE (R420-R423): CX is decremented, and the
jump taken where the new CX is not 0 (the old one not 1) and ZF is as LOOPE and LOOPNE ask. -/
def Obligations.ConditionalJumps : Prop :=
  ∀ (s : State) (d : Byte),
    let target := s.ipNext + d.signExtend 16
    let jumps (i : Instr) (t : State) (c : Prop) : Prop :=
      (c → exec i s = .next (t.setIp target)) ∧ (¬ c → exec i s = .next (t.setIp s.ipNext))
    let f := s.flags
    let cx := readReg .w16 .cx s
    let u := writeReg .w16 .cx (cx - 1#16) s
    jumps (.jo d) s (f.OF = true) ∧ jumps (.jno d) s (f.OF = false) ∧
    jumps (.jc d) s (f.CF = true) ∧ jumps (.jnc d) s (f.CF = false) ∧
    jumps (.jz d) s (f.ZF = true) ∧ jumps (.jnz d) s (f.ZF = false) ∧
    jumps (.jbe d) s (f.CF = true ∨ f.ZF = true) ∧ jumps (.ja d) s (f.CF = false ∧ f.ZF = false) ∧
    jumps (.js d) s (f.SF = true) ∧ jumps (.jns d) s (f.SF = false) ∧
    jumps (.jpe d) s (f.PF = true) ∧ jumps (.jpo d) s (f.PF = false) ∧
    jumps (.jl d) s (f.SF ≠ f.OF) ∧ jumps (.jge d) s (f.SF = f.OF) ∧
    jumps (.jle d) s (f.ZF = true ∨ f.SF ≠ f.OF) ∧ jumps (.jg d) s (f.ZF = false ∧ f.SF = f.OF) ∧
    jumps (.jcxz d) s (cx = 0#16) ∧ jumps (.loop d) u (cx ≠ 1#16) ∧
    jumps (.loope d) u (cx ≠ 1#16 ∧ f.ZF = true) ∧ jumps (.loopne d) u (cx ≠ 1#16 ∧ f.ZF = false)

/-- WHEN A STORE OR A STACK ACCESS FAULTS (20_memory.md R74; the pseudocode of 45, 46, 47 and 60_exceptions.md R610): the first
access past `MEM_SIZE` ends the instruction in its MemoryFault, its address, width and kind in the record. MOV, PUSH, CALL, INT,
POP, RET, IRET, the vector, STOS, MOVS, and every string instruction at element j of a repetition, which CMPS and SCAS reach if
no earlier comparison ends it (46_string.md R470). What is left changed: FaultPrecision; reads before any write: FirstReadFault.
That RETF and IRET record the old CS and keep IP is log entry 13. -/
def Obligations.StoreAndStackFaults : Prop :=
  ∀ (i : Instr) (s : State),
    let faultsAt (p n : Nat) (a : Access) : Prop :=
      ¬ inMemory p n s →
        ∃ t, exec i s = .next t ∧ t.fault = some ⟨.memoryFault p n a, s.sreg.cs, s.ip⟩ ∧ t.ip = s.ip
    let pushed (j : Nat) : Prop := inMemory (pushAddr s j) 2 s
    let popped (j : Nat) : Prop := inMemory (popAddr s j) 2 s
    let pushFault (j : Nat) : Prop := faultsAt (pushAddr s j) 2 .write
    let popFault (j : Nat) : Prop := faultsAt (popAddr s j) 2 .read
    (∀ f seg off, moveForm i s = some f → f.dst = .mem seg off → accessible f.w f.src s →
      faultsAt (s.addr seg off) f.w.bytes .write) ∧
    (∀ op, pushForm i s = some op → accessible .w16 op s → pushFault 1) ∧
    (i = .pushf ∨ (∃ d, i = .callRel16 d) → pushFault 1) ∧
    (∀ e, i = .callEv e → accessible .w16 (operandOf e s) s → pushFault 1) ∧
    ((∃ a b, i = .callFar a b) ∨
        (∃ m, i = .callMp m ∧ inMemory (s.addr (memSeg m s.params) (memAddress m s)) 2 s ∧
          inMemory (s.addr (memSeg m s.params) (memAddress m s + 2#16)) 2 s) →
      pushFault 1 ∧ (pushed 1 → pushFault 2)) ∧
    (∀ op, popForm i s = some op →
      popFault 0 ∧ ∀ seg off, op = .mem seg off → popped 0 → faultsAt (s.addr seg off) 2 .write) ∧
    (i = .popf ∨ i = .ret ∨ (∃ n, i = .retIw n) → popFault 0) ∧
    (i = .retf ∨ (∃ n, i = .retfIw n) ∨ i = .iret → popFault 0 ∧ (popped 0 → popFault 1)) ∧
    (i = .iret → popped 0 → popped 1 → popFault 2) ∧
    (∀ n, interruptVector i = some n → n ∉ s.params.hostInt → (i = .into → s.flags.OF = true) →
      pushFault 1 ∧ (pushed 1 → pushFault 2) ∧ (pushed 1 → pushed 2 → pushFault 3) ∧
      (pushed 1 → pushed 2 → pushed 3 →
        faultsAt (4 * n.toNat) 2 .read ∧ (inMemory (4 * n.toNat) 2 s → faultsAt (4 * n.toNat + 2) 2 .read))) ∧
    (∀ f, stringForm i = some f →
      (f.op = .stos → faultsAt (destElement f.w s 0) f.w.bytes .write) ∧
      (f.op = .movs → inMemory (sourceElement f.w f.ovr s 0) f.w.bytes s →
        faultsAt (destElement f.w s 0) f.w.bytes .write)) ∧
    (∀ f, repeatForm i = some f → ∀ j < (readReg .w16 .cx s).toNat, elementsInMemory f.toStringForm s j →
      let left (l : Nat) := if f.op = .scas then readReg f.w .ax s else memValue f.w (sourceElement f.w f.ovr s l) s
      let right (l : Nat) := memValue f.w (destElement f.w s l) s
      let reached : Prop := ∀ l < j, ¬ repeatEnds f.kind (updateSUB (left l) (right l) false s.flags).2
      (f.op = .stos → faultsAt (destElement f.w s j) f.w.bytes .write) ∧
      (f.op = .movs ∨ f.op = .lods → faultsAt (sourceElement f.w f.ovr s j) f.w.bytes .read) ∧
      (f.op = .movs → inMemory (sourceElement f.w f.ovr s j) f.w.bytes s →
        faultsAt (destElement f.w s j) f.w.bytes .write) ∧
      (f.op = .cmps → reached →
        faultsAt (sourceElement f.w f.ovr s j) f.w.bytes .read ∧
        (inMemory (sourceElement f.w f.ovr s j) f.w.bytes s → faultsAt (destElement f.w s j) f.w.bytes .read)) ∧
      (f.op = .scas → reached → faultsAt (destElement f.w s j) f.w.bytes .read))

/-- JMP near and far, direct and indirect (45_control_transfer.md R425-R428), and HLT (R451). -/
def Obligations.JumpsAndHalt : Prop :=
  ∀ (s : State) (d8 : Byte) (d16 sel off : Word) (e : RM) (m : MemRef),
    let seg := memSeg m s.params
    let ea := memAddress m s
    exec (.jmpRel8 d8) s = .next (s.setIp (s.ipNext + d8.signExtend 16)) ∧
    exec (.jmpRel16 d16) s = .next (s.setIp (s.ipNext + d16)) ∧
    exec (.jmpFar sel off) s = .next ((s.setSreg .cs sel).setIp off) ∧
    (accessible .w16 (operandOf e s) s → exec (.jmpEv e) s = .next (s.setIp (valueOf .w16 (operandOf e s) s))) ∧
    (inMemory (s.addr seg ea) 2 s → inMemory (s.addr seg (ea + 2#16)) 2 s →
      exec (.jmpMp m) s =
        .next ((s.setSreg .cs (wordAt s (s.addr seg (ea + 2#16)))).setIp (wordAt s (s.addr seg ea)))) ∧
    exec .hlt s = .next { s with ip := s.ipNext, halted := true }

/-- CALL near and far, direct and indirect (45_control_transfer.md R430-R433): the return address is pushed, CS above the
offset; targets are read before SP changes. -/
def Obligations.Calls : Prop :=
  ∀ (s : State) (d sel off : Word) (e : RM) (m : MemRef), inMemory (pushAddr s 1) 2 s →
    let near := pushed s.ipNext s
    let far := pushed s.ipNext (pushed s.sreg.cs s)
    let seg := memSeg m s.params
    let ea := memAddress m s
    exec (.callRel16 d) s = .next (near.setIp (s.ipNext + d)) ∧
    (accessible .w16 (operandOf e s) s → exec (.callEv e) s = .next (near.setIp (valueOf .w16 (operandOf e s) s))) ∧
    (inMemory (pushAddr s 2) 2 s → exec (.callFar sel off) s = .next ((far.setSreg .cs sel).setIp off)) ∧
    (inMemory (pushAddr s 2) 2 s → inMemory (s.addr seg ea) 2 s → inMemory (s.addr seg (ea + 2#16)) 2 s →
      exec (.callMp m) s =
        .next ((far.setSreg .cs (wordAt s (s.addr seg (ea + 2#16)))).setIp (wordAt s (s.addr seg ea))))

/-- RET, RETF, with and without a release, and IRET (45_control_transfer.md R435-R438, R443). -/
def Obligations.Returns : Prop :=
  ∀ (s : State) (n : Word), inMemory (popAddr s 0) 2 s →
    let word (j : Nat) := wordAt s (popAddr s j)
    let sp (x : Word) := writeReg .w16 .sp (s.sp + x) s
    exec .ret s = .next ((sp 2#16).setIp (word 0)) ∧
    exec (.retIw n) s = .next ((sp (2#16 + n)).setIp (word 0)) ∧
    (inMemory (popAddr s 1) 2 s →
      exec .retf s = .next (((sp 4#16).setSreg .cs (word 1)).setIp (word 0)) ∧
      exec (.retfIw n) s = .next (((sp (4#16 + n)).setSreg .cs (word 1)).setIp (word 0))) ∧
    (inMemory (popAddr s 1) 2 s → inMemory (popAddr s 2) 2 s →
      exec .iret s =
        .next ((((sp 6#16).setSreg .cs (word 1)).setIp (word 0)).setFlags (Flags.ofImage (word 2))))

/-- TAKING A SOFTWARE INTERRUPT through the vector table (60_exceptions.md R610): FLAGS, CS and IP_next are pushed, IF and TF
cleared, CS:IP loaded from physical 4n; INT3 and INTO enter vectors 3 and 4, INTO without OF only goes on. -/
def Obligations.SoftwareInterruptEntry : Prop :=
  (∀ s : State, s.flags.OF = false → exec .into s = .next (s.setIp s.ipNext)) ∧
  ∀ (s : State) (n : Byte), n ∉ s.params.hostInt →
    inMemory (pushAddr s 1) 2 s → inMemory (pushAddr s 2) 2 s → inMemory (pushAddr s 3) 2 s →
    inMemory (4 * n.toNat) 4 s →
    let u := pushed s.ipNext (pushed s.sreg.cs (pushed s.flags.image s))
    let t := ((u.setFlags { s.flags with IF := false, TF := false }).setIp (wordAt u (4 * n.toNat))).setSreg .cs
      (wordAt u (4 * n.toNat + 2))
    exec (.intIb n) s = .next t ∧
    (n = 3#8 → exec .int3 s = .next t) ∧
    (n = 4#8 → s.flags.OF = true → exec .into s = .next t)

/-- IRET undoes the entry (60_exceptions.md R612): from the handler's first state after INT, INT3 or a taken INTO it answers
IP_next, CS, all nine flags and every general register as they were. -/
def Obligations.InterruptReturnRoundTrip : Prop :=
  ∀ (i : Instr) (s t : State) (n : Byte), interruptVector i = some n → (i = .into → s.flags.OF = true) →
    Memory.wf s.mem → s.fault = none → n ∉ s.params.hostInt → exec i s = .next t → t.fault = none →
    ∃ u, exec .iret t = .next u ∧ u.ip = s.ipNext ∧ u.sreg = s.sreg ∧ u.flags = s.flags ∧ u.gpr = s.gpr ∧ u.mem = t.mem

/-- A claimed vector (60_exceptions.md R611): the instruction does what the host service does, a free function of the vector and
the core state with IP = IP_next (log entry 8). The service leaves registers, flags and memory of its own and nothing else; or
it fails, a HostFault at the instruction with all else unchanged; or it blocks (log entry 9). -/
def Obligations.HostServices : Prop :=
  ∀ (i : Instr) (s : State) (n : Byte), interruptVector i = some n → n ∈ s.params.hostInt → (i = .into → s.flags.OF = true) →
    let g := s.gpr
    let r := s.sreg
    let seen : ServiceState :=
      { eax := g.eax, ecx := g.ecx, edx := g.edx, ebx := g.ebx, esp := g.esp, ebp := g.ebp, esi := g.esi, edi := g.edi,
        es := r.es, cs := r.cs, ss := r.ss, ds := r.ds, fs := r.fs, gs := r.gs, ip := s.ipNext, flags := s.flags.image,
        mem := s.mem }
    (∀ u, Config.hostService s.draws n seen = .done u →
      exec i s = .next
        { gpr := ⟨u.eax, u.ecx, u.edx, u.ebx, u.esp, u.ebp, u.esi, u.edi⟩, sreg := ⟨u.es, u.cs, u.ss, u.ds, u.fs, u.gs⟩,
          ip := u.ip, flags := Flags.ofImage u.flags, mem := memoryOfCells s.params.memSize u.mem, halted := s.halted,
          fault := s.fault, pre := s.pre, k := s.k, params := s.params, draws := s.draws + 1 }) ∧
    (∀ rec, Config.hostService s.draws n seen = .failed rec →
      exec i s = .next { faultState (.hostFault n rec) s with draws := s.draws + 1 }) ∧
    (Config.hostService s.draws n seen = .blocks → exec i s = .fault (.serviceBlocked n))

/-! ## Strings: results -/

/-- MOVS, CMPS, SCAS, STOS, LODS without a repetition, in three widths (46_string.md R460-R465): the element at the source
segment and SI or at ES:DI, the indices moved by ±n as DF says. -/
def Obligations.StringElementResult : Prop :=
  ∀ (i : Instr) (s : State) (f : StringForm), stringForm i = some f → elementsInMemory f s 1 →
    let src := s.addr (f.ovr.getD .ds) (readReg .w16 .si s)
    let dst := s.addr .es (readReg .w16 .di s)
    let delta : Word := if s.flags.DF then 0#16 - BitVec.ofNat 16 f.w.bytes else BitVec.ofNat 16 f.w.bytes
    let si (u : State) := writeReg .w16 .si (readReg .w16 .si s + delta) u
    let di (u : State) := writeReg .w16 .di (readReg .w16 .di s + delta) u
    let a := memValue f.w src s
    let b := memValue f.w dst s
    let acc := readReg f.w .ax s
    exec i s = .next (State.setIp
      (match f.op with
       | .movs => di (si (memStored f.w dst a s))
       | .cmps => di (si (s.setFlags (updateSUB a b false s.flags).2))
       | .scas => di (s.setFlags (updateSUB acc b false s.flags).2)
       | .stos => di (memStored f.w dst acc s)
       | .lods => si (writeReg f.w .ax a s)) s.ipNext)

/-- The loop of 46_string.md R470, one round unrolled: CX = 0 does nothing but IP; otherwise the plain instruction, the CX
decrement, and then the end (the ZF test of REPZ and REPNZ) or the repetition from there. -/
def Obligations.RepetitionUnrolls : Prop :=
  ∀ (i j : Instr) (s t : State) (f : RepeatForm), repeatForm i = some f → stringForm j = some f.toStringForm →
    (readReg .w16 .cx s = 0#16 → exec i s = .next (s.setIp s.ipNext)) ∧
    (readReg .w16 .cx s ≠ 0#16 → exec j s = .next t → t.fault = none →
      let u := (writeReg .w16 .cx (readReg .w16 .cx s - 1#16) t).setIp s.ip
      (repeatEnds f.kind u.flags → exec i s = .next (u.setIp s.ipNext)) ∧
      (¬ repeatEnds f.kind u.flags → ∀ v, exec i u = .next v → v.fault = none → exec i s = .next v))

/-- Every repetition over elements in memory completes in one step (46_string.md R470): IP moves on, no fault, and CX is 0
unless the ZF test ended it. -/
def Obligations.RepetitionCompletes : Prop :=
  ∀ (i : Instr) (s : State) (f : RepeatForm), repeatForm i = some f → s.fault = none →
    elementsInMemory f.toStringForm s (readReg .w16 .cx s).toNat →
    ∃ t, exec i s = .next t ∧ t.fault = none ∧ t.ip = s.ipNext ∧
      (readReg .w16 .cx t = 0#16 ∨ repeatEnds f.kind t.flags)

/-- What REP STOS and REP MOVS leave in memory, in either direction and at every width: STOS the accumulator in every element,
MOVS each source element where no source element is overwritten; and no byte outside the elements. -/
def Obligations.RepeatedStores : Prop :=
  ∀ (i : Instr) (s : State) (f : RepeatForm), repeatForm i = some f → s.fault = none → Memory.wf s.mem →
    let n := (readReg .w16 .cx s).toNat
    let dst := destElement f.w s
    let src := sourceElement f.w f.ovr s
    elementsInMemory f.toStringForm s n →
    (f.op = .stos → ∃ t, exec i s = .next t ∧ (∀ j < n, memValue f.w (dst j) t = readReg f.w .ax s) ∧
      ∀ a, (∀ j < n, a ∉ byteRange (dst j) f.w.bytes) → Memory.read t.mem a = Memory.read s.mem a) ∧
    (f.op = .movs →
      (∀ j < n, ∀ l < n, src j + f.w.bytes ≤ dst l ∨ dst l + f.w.bytes ≤ src j) →
      ∃ t, exec i s = .next t ∧ (∀ j < n, memValue f.w (dst j) t = memValue f.w (src j) s) ∧
        ∀ a, (∀ j < n, a ∉ byteRange (dst j) f.w.bytes) → Memory.read t.mem a = Memory.read s.mem a)

/-! ## Data transfer: results -/

/-- MOV in every form and XCHG (47_data_transfer.md R490-R495). -/
def Obligations.MoveAndExchangeResult : Prop :=
  ∀ (i : Instr) (s : State),
    (∀ f, moveForm i s = some f → accessible f.w f.dst s → accessible f.w f.src s →
      exec i s = .next ((stored f.w f.dst (valueOf f.w f.src s) s).setIp s.ipNext)) ∧
    (∀ f, exchangeForm i s = some f → accessible f.w f.dst s →
      exec i s =
        .next ((stored f.w f.src (valueOf f.w f.dst s) (stored f.w f.dst (valueOf f.w f.src s) s)).setIp s.ipNext))

/-- NOP, LEA, LES, LDS, LSS, LFS, LGS, XLAT (47_data_transfer.md R496-R510): LEA touches no memory; a far load reads the offset
and then the segment word w/8 bytes on, modulo 0x10000. -/
def Obligations.AddressLoads : Prop :=
  ∀ (i : Instr) (s : State),
    (∀ o, exec (.nop o) s = .next (s.setIp s.ipNext)) ∧
    (∀ o g m, exec (.leaGvM o g m) s =
      .next ((writeReg o.width g ((memAddress m s).setWidth o.width.bits) s).setIp s.ipNext)) ∧
    (∀ f, farLoadForm i = some f →
      let p := s.addr (memSeg f.m s.params) (memAddress f.m s)
      let q := s.addr (memSeg f.m s.params) (memAddress f.m s + BitVec.ofNat 16 f.o.width.bytes)
      inMemory p f.o.width.bytes s → inMemory q 2 s →
      exec i s = .next (((writeReg f.o.width f.g (memValue f.o.width p s) s).setSreg f.seg (wordAt s q)).setIp s.ipNext)) ∧
    (∀ ovr : Option SReg,
      let p := s.addr (ovr.getD .ds) (readReg .w16 .bx s + (readReg .w8 .ax s).setWidth 16)
      inMemory p 1 s → exec (.xlat ovr) s = .next ((writeReg .w8 .ax (memValue .w8 p s) s).setIp s.ipNext))

/-- PUSH and POP in every form (47_data_transfer.md R520-R526): the value is read before SP changes (so PUSH SP pushes the old
SP), and POP changes SP before it writes (so POP SP leaves the popped word). -/
def Obligations.PushAndPopResult : Prop :=
  ∀ (i : Instr) (s : State) (op : Operand),
    (pushForm i s = some op → accessible .w16 op s → inMemory (pushAddr s 1) 2 s →
      let t := (pushed (valueOf .w16 op s) s).setIp s.ipNext
      exec i s = .next t ∧ t.sp = s.sp - 2#16 ∧
      (Memory.wf s.mem → wordAt t (phys s.sreg.ss (s.sp - 2#16)) = valueOf .w16 op s)) ∧
    (popForm i s = some op → inMemory (popAddr s 0) 2 s → accessible .w16 op s →
      let v := wordAt s (popAddr s 0)
      exec i s = .next ((stored .w16 op v (writeReg .w16 .sp (s.sp + 2#16) s)).setIp s.ipNext) ∧
      (op = .reg .sp → ∃ t, exec i s = .next t ∧ t.sp = v))

/-- The nine prefix units (30_encoding.md R111): each sets its part of the decoder state of the instruction it precedes, and
nothing else; IP stays at the first byte. -/
def Obligations.PrefixUnits : Prop :=
  ∀ s : State,
    let seg (r : SReg) : Result := .next { s with pre := { s.pre with segOvr := some r } }
    exec .segEs s = seg .es ∧ exec .segCs s = seg .cs ∧ exec .segSs s = seg .ss ∧ exec .segDs s = seg .ds ∧
    exec .segFs s = seg .fs ∧ exec .segGs s = seg .gs ∧
    exec .opSize s = .next { s with pre := { s.pre with osz := .o32 } } ∧
    exec .repE s = .next { s with pre := { s.pre with rep := some .z } } ∧
    exec .repNe s = .next { s with pre := { s.pre with rep := some .nz } }

/-! ## Frames: what an instruction that completes leaves unchanged -/

/-- The frame of the arithmetic instructions: binary ALU, TEST, unary ALU, multiply, divide, sign extension, shifts. -/
def Obligations.ArithmeticFrame : Prop :=
  ∀ (i : Instr) (s t : State), exec i s = .next t → t.fault = none →
    (∀ f, binaryForm i s = some f →
      Unchanged (if f.op = .cmp then { flags := arithFlags } else { operandWrites f.w f.dst s with flags := arithFlags }) s t) ∧
    (∀ f, testForm i s = some f → Unchanged { flags := arithFlags } s t) ∧
    (∀ f, unaryForm i s = some f →
      Unchanged { operandWrites f.w f.dst s with flags := unaryFlags f.op s.params } s t) ∧
    (∀ f, mulDivForm i s = some f →
      Unchanged { regs := [(f.w, accHigh f.w), (f.w, .ax)],
                  flags := if f.op = .mul ∨ f.op = .imul then [.CF, .OF] else [] } s t) ∧
    (i = .cbw → Unchanged { regs := [(.w16, .ax)] } s t) ∧ (i = .cwde → Unchanged { regs := [(.w32, .ax)] } s t) ∧
    (i = .cwd → Unchanged { regs := [(.w16, .dx)] } s t) ∧ (i = .cdq → Unchanged { regs := [(.w32, .dx)] } s t) ∧
    (∀ f, shiftForm i s = some f →
      Unchanged { operandWrites f.w f.dst s with
                    flags := if f.op.isShift then [.CF, .OF, .SF, .ZF, .PF] else [.CF, .OF] } s t)

/-- The frame of the flag instructions and of control transfer. A software interrupt on a claimed vector has no frame. -/
def Obligations.ControlFrame : Prop :=
  ∀ (i : Instr) (s t : State), exec i s = .next t → t.fault = none →
    (i = .clc ∨ i = .stc ∨ i = .cmc → Unchanged { flags := [.CF] } s t) ∧
    (i = .cld ∨ i = .std → Unchanged { flags := [.DF] } s t) ∧
    (i = .cli ∨ i = .sti → Unchanged { flags := [.IF] } s t) ∧
    (i = .lahf → Unchanged { regs := [(.w8, .sp)] } s t) ∧
    (i = .sahf → Unchanged { flags := sahfFlags s.params } s t) ∧
    (i = .pushf → Unchanged { regs := [(.w16, .sp)], bytes := pushedBytes s 1 } s t) ∧
    (i = .popf → Unchanged { regs := [(.w16, .sp)], flags := allFlags } s t) ∧
    (shortJump i ≠ none → Unchanged {} s t) ∧
    (∀ d, i = .jcxz d → Unchanged {} s t) ∧
    (∀ d, i = .loop d ∨ i = .loope d ∨ i = .loopne d → Unchanged { regs := [(.w16, .cx)] } s t) ∧
    ((∃ d, i = .jmpRel8 d) ∨ (∃ d, i = .jmpRel16 d) ∨ (∃ e, i = .jmpEv e) → Unchanged {} s t) ∧
    ((∃ a b, i = .jmpFar a b) ∨ (∃ m, i = .jmpMp m) → Unchanged { sregs := [.cs] } s t) ∧
    ((∃ d, i = .callRel16 d) ∨ (∃ e, i = .callEv e) →
      Unchanged { regs := [(.w16, .sp)], bytes := pushedBytes s 1 } s t) ∧
    ((∃ a b, i = .callFar a b) ∨ (∃ m, i = .callMp m) →
      Unchanged { regs := [(.w16, .sp)], sregs := [.cs], bytes := pushedBytes s 2 } s t) ∧
    (i = .ret ∨ (∃ n, i = .retIw n) → Unchanged { regs := [(.w16, .sp)] } s t) ∧
    (i = .retf ∨ (∃ n, i = .retfIw n) → Unchanged { regs := [(.w16, .sp)], sregs := [.cs] } s t) ∧
    (i = .iret → Unchanged { regs := [(.w16, .sp)], sregs := [.cs], flags := allFlags } s t) ∧
    (∀ n, interruptVector i = some n → n ∉ s.params.hostInt →
      Unchanged { regs := [(.w16, .sp)], sregs := [.cs], flags := [.IF, .TF], bytes := pushedBytes s 3 } s t) ∧
    (i = .hlt → Unchanged {} s { t with halted := s.halted })

/-- The frame of the string instructions, alone and repeated. -/
def Obligations.StringFrame : Prop :=
  ∀ (i : Instr) (s t : State), exec i s = .next t → t.fault = none →
    (∀ f, stringForm i = some f → Unchanged (elementWrites f s) s t) ∧
    (∀ f, repeatForm i = some f → Unchanged (repeatWrites f.toStringForm s) s t)

/-- The frame of the data transfers: MOV, XCHG, NOP, LEA, the far loads, XLAT, PUSH, POP. -/
def Obligations.TransferFrame : Prop :=
  ∀ (i : Instr) (s t : State), exec i s = .next t → t.fault = none →
    (∀ f, moveForm i s = some f → Unchanged (operandWrites f.w f.dst s) s t) ∧
    (∀ f, exchangeForm i s = some f →
      Unchanged { regs := (operandWrites f.w f.dst s).regs ++ (operandWrites f.w f.src s).regs,
                  bytes := operandBytes f.w f.dst s } s t) ∧
    (∀ o, i = .nop o → Unchanged {} s t) ∧
    (∀ o g m, i = .leaGvM o g m → Unchanged { regs := [(o.width, g)] } s t) ∧
    (∀ f, farLoadForm i = some f → Unchanged { regs := [(f.o.width, f.g)], sregs := [f.seg] } s t) ∧
    (∀ o, i = .xlat o → Unchanged { regs := [(.w8, .ax)] } s t) ∧
    (∀ op, pushForm i s = some op → Unchanged { regs := [(.w16, .sp)], bytes := pushedBytes s 1 } s t) ∧
    (∀ op, popForm i s = some op →
      Unchanged { operandWrites .w16 op s with regs := (.w16, .sp) :: (operandWrites .w16 op s).regs } s t)

/-- PRECISION (60_exceptions.md R602, R603): an instruction that faults leaves IP at its first byte, sets the mark, and changes at
most the places it writes before the failing step and the bytes of the write that fails, which take any value (log entry 7).
The steps are told apart by the access that fails: pushes, pops and vector words in their order, elements one by one. The
clauses of RETF and IRET rest on log entry 13 too (IP stays, although the pseudocode writes it first), those of repetitions on
log entry 18. -/
def Obligations.FaultPrecision : Prop :=
  ∀ (i : Instr) (s t : State), exec i s = .next t → s.fault = none → t.fault ≠ none →
    let changesAtMost (x : Writes) : Prop := t.ip = s.ip ∧ Unchanged x { s.endInstr with fault := t.fault } t
    let pushFails (j : Nat) : Prop := ¬ inMemory (pushAddr s j) 2 s
    let popFails (j : Nat) : Prop := ¬ inMemory (popAddr s j) 2 s
    ((binaryForm i s).isSome ∨ (testForm i s).isSome ∨ (unaryForm i s).isSome ∨ (mulDivForm i s).isSome ∨
      (shiftForm i s).isSome ∨ (farLoadForm i).isSome → changesAtMost {}) ∧
    (∀ f, moveForm i s = some f → changesAtMost { bytes := operandBytes f.w f.dst s }) ∧
    (∀ f, exchangeForm i s = some f → changesAtMost {}) ∧
    ((pushForm i s).isSome ∨ i = .pushf ∨ (∃ d, i = .callRel16 d) ∨ (∃ e, i = .callEv e) →
      changesAtMost { bytes := pushedBytes s 1 }) ∧
    (∀ op, popForm i s = some op →
      (popFails 0 → changesAtMost {}) ∧ changesAtMost { regs := [(.w16, .sp)], bytes := operandBytes .w16 op s }) ∧
    ((∃ a b, i = .callFar a b) ∨ (∃ m, i = .callMp m) →
      (pushFails 1 → changesAtMost { bytes := pushedBytes s 1 }) ∧
      changesAtMost { regs := [(.w16, .sp)], bytes := pushedBytes s 2 }) ∧
    (i = .popf ∨ i = .ret ∨ (∃ n, i = .retIw n) ∨ (∃ e, i = .jmpEv e) ∨ (∃ m, i = .jmpMp m) ∨ (∃ o, i = .xlat o) →
      changesAtMost {}) ∧
    (i = .retf ∨ (∃ n, i = .retfIw n) →
      (popFails 0 → changesAtMost {}) ∧ changesAtMost { regs := [(.w16, .sp)] }) ∧
    (i = .iret →
      (popFails 0 → changesAtMost {}) ∧ (popFails 1 → changesAtMost { regs := [(.w16, .sp)] }) ∧
      changesAtMost { regs := [(.w16, .sp)], sregs := [.cs] }) ∧
    (∀ n, interruptVector i = some n → n ∉ s.params.hostInt →
      (pushFails 1 → changesAtMost { bytes := pushedBytes s 1 }) ∧
      (pushFails 2 → changesAtMost { regs := [(.w16, .sp)], flags := [.IF, .TF], bytes := pushedBytes s 2 }) ∧
      changesAtMost { regs := [(.w16, .sp)], flags := [.IF, .TF], bytes := pushedBytes s 3 }) ∧
    (∀ f, stringForm i = some f → changesAtMost { bytes := (elementWrites f s).bytes }) ∧
    (∀ f, repeatForm i = some f → ∃ j < (readReg .w16 .cx s).toNat,
      elementsInMemory f.toStringForm s j ∧ ¬ elementsInMemory f.toStringForm s (j + 1) ∧
      changesAtMost (interruptedWrites f.toStringForm s j))

/-! ## The whole machine -/

/-- Which instructions may change AF, TF, IF, DF and the segment registers (10_state.md R37, R42): none but those named. A host
service may change all. -/
def Obligations.SystemStateWriters : Prop :=
  ∀ (i : Instr) (s t : State), i.wf = true → exec i s = .next t → t.fault = none →
    (∀ n, interruptVector i = some n → n ∉ s.params.hostInt) →
    (t.flags.AF ≠ s.flags.AF → i ∈ [Instr.sahf, .popf, .iret]) ∧
    (t.flags.TF ≠ s.flags.TF → interruptVector i ≠ none ∨ i ∈ [Instr.popf, .iret]) ∧
    (t.flags.IF ≠ s.flags.IF → interruptVector i ≠ none ∨ i ∈ [Instr.cli, .sti, .popf, .iret]) ∧
    (t.flags.DF ≠ s.flags.DF → i ∈ [Instr.cld, .std, .popf, .iret]) ∧
    (t.sreg.cs ≠ s.sreg.cs →
      interruptVector i ≠ none ∨ i ∈ [Instr.iret, .retf] ∨ (∃ n, i = .retfIw n) ∨ (∃ a b, i = .jmpFar a b ∨ i = .callFar a b) ∨
        ∃ m, i = .jmpMp m ∨ i = .callMp m) ∧
    (∀ r, r ≠ .cs → t.sreg.get r ≠ s.sreg.get r →
      (∃ e, i = .movSwEw r e) ∨ (∃ f, farLoadForm i = some f ∧ f.seg = r) ∨ popForm i s = some (.seg r))

/-! ## The host's accessors and the assembler -/

/-- 20_memory.md R80 and R81: the host's accessors are little-endian accesses of 1, 2, 4, 8 or any number of bytes at the unreduced
physical address, with the core's bound at every width, and setBits ORs one byte. A failing access answers its fault and no
state (log entries 16, 22; setBits reports the write, log entry 23), and an access of no bytes does nothing (log entry 16). -/
def Obligations.HostAccessors : Prop :=
  ∀ (s : State) (seg : Word) (off : Int), Memory.wf s.mem →
    let p := portPhys seg off
    let a := p.toNat
    let inside (n : Nat) : Prop := 0 ≤ p ∧ p + n ≤ s.params.memSize
    let byteAt (j : Nat) : Byte := Memory.read s.mem (a + j)
    let stores (n : Nat) (v : Nat → Byte) (r : Except PortFault State) : Prop :=
      ∃ t, r = .ok t ∧ t = s.setMem t.mem ∧ Memory.wf t.mem ∧
        ∀ x, Memory.read t.mem x = if a ≤ x ∧ x < a + n then v (x - a) else Memory.read s.mem x
    let loads {w : Nat} (n : Nat) (r : Except PortFault (BitVec w)) : Prop :=
      ∃ x, r = .ok x ∧ ∀ j < n, x.extractLsb' (8 * j) 8 = byteAt j
    (¬ inside 1 → getByte seg off s = .error ⟨p, 1, .read⟩ ∧ (∀ v, setByte seg off v s = .error ⟨p, 1, .write⟩) ∧
      ∀ m, setBits seg off m s = .error ⟨p, 1, .write⟩) ∧
    (¬ inside 2 → getWord seg off s = .error ⟨p, 2, .read⟩ ∧ ∀ v, setWord seg off v s = .error ⟨p, 2, .write⟩) ∧
    (¬ inside 4 → getDoubleWord seg off s = .error ⟨p, 4, .read⟩ ∧ ∀ v, setDoubleWord seg off v s = .error ⟨p, 4, .write⟩) ∧
    (¬ inside 8 → getQuadWord seg off s = .error ⟨p, 8, .read⟩ ∧ ∀ v, setQuadWord seg off v s = .error ⟨p, 8, .write⟩) ∧
    (∀ n, n ≠ 0 → ¬ inside n → getBytes seg off n s = .error ⟨p, n, .read⟩) ∧
    (∀ bs, bs ≠ [] → ¬ inside bs.length → setBytes seg off bs s = .error ⟨p, bs.length, .write⟩) ∧
    (inside 1 → loads 1 (getByte seg off s) ∧ (∀ v, stores 1 (fun _ => v) (setByte seg off v s)) ∧
      ∀ m, stores 1 (fun _ => byteAt 0 ||| m) (setBits seg off m s)) ∧
    (inside 2 → loads 2 (getWord seg off s) ∧
      ∀ v, stores 2 (fun j => v.extractLsb' (8 * j) 8) (setWord seg off v s)) ∧
    (inside 4 → loads 4 (getDoubleWord seg off s) ∧
      ∀ v, stores 4 (fun j => v.extractLsb' (8 * j) 8) (setDoubleWord seg off v s)) ∧
    (inside 8 → loads 8 (getQuadWord seg off s) ∧
      ∀ v, stores 8 (fun j => v.extractLsb' (8 * j) 8) (setQuadWord seg off v s)) ∧
    (∀ n, n = 0 ∨ inside n → getBytes seg off n s = .ok ((List.range n).map byteAt)) ∧
    (∀ bs, bs = [] ∨ inside bs.length → stores bs.length (fun j => bs.getD j 0#8) (setBytes seg off bs s)) ∧
    (∀ o : Word, getWord seg o.toNat s =
      (memRead .w16 (phys seg o) s).mapError fun _ => ⟨(phys seg o : Int), 2, .read⟩)

/-- 30_encoding.md R182-R184, R186 and R188: the resolver's table, its displacement sizes and its failures (BP alone or with a
number, no token, two of a class, another token, a number out of range); the one-byte INC and DEC;
LOOPZ and LOOPNZ (45_control_transfer.md R422, R423); XCHG with the register first; DB. The model's choices in it: that a line
is tokens and its answer the list of every encoding (log entry 17); that XCHG takes every 8-bit register first (log entry 26:
47_data_transfer.md R495 shows `XCHG AL, [BX]` alone); what DB does with other operands (log entries 21, 28). -/
def Obligations.AssemblerTables : Prop :=
  (∀ (a b : Reg) (form : EABase) (v : Int),
    (a, b, form) ∈ [(Reg.bx, Reg.si, EABase.bxSi), (.bx, .di, .bxDi), (.bp, .si, .bpSi), (.bp, .di, .bpDi)] →
    resolve [.reg a, .reg b] = .ok (.base form) ∧ resolve [.reg b, .reg a] = .ok (.base form) ∧
    (0 ≤ v → v < 0x100 → resolve [.reg a, .reg b, .num v] = .ok (.disp8 form (BitVec.ofInt 8 v))) ∧
    (0x100 ≤ v → v < 0x10000 → resolve [.reg a, .reg b, .num v] = .ok (.disp16 form (BitVec.ofInt 16 v)))) ∧
  (∀ (a : Reg) (form : EABase) (v : Int), (a, form) ∈ [(Reg.bx, EABase.bx), (.si, .si), (.di, .di)] →
    resolve [.reg a] = .ok (.base form) ∧
    (0 ≤ v → v < 0x100 → resolve [.reg a, .num v] = .ok (.disp8 form (BitVec.ofInt 8 v))) ∧
    (0x100 ≤ v → v < 0x10000 → resolve [.reg a, .num v] = .ok (.disp16 form (BitVec.ofInt 16 v)))) ∧
  (∀ v : Int,
    (0 ≤ v → v < 0x10000 → resolve [.num v] = .ok (.direct (BitVec.ofInt 16 v))) ∧
    resolve [.reg .bp, .num v] = .error .malformedInstruction) ∧
  resolve [.reg .bp] = .error .malformedInstruction ∧ resolve [] = .error .malformedInstruction ∧
  (∀ ts : List AsmToken,
    let count (q : AsmToken → Bool) := (ts.filter q).length
    2 ≤ count (fun t => t == .reg .bx || t == .reg .bp) ∨ 2 ≤ count (fun t => t == .reg .si || t == .reg .di) ∨
      2 ≤ count (fun t => match t with | .num _ => true | _ => false) ∨ .other ∈ ts ∨
      (∃ r ∈ [Reg.ax, .cx, .dx, .sp], .reg r ∈ ts) ∨ (∃ v : Int, .num v ∈ ts ∧ (v < 0 ∨ 0x10000 ≤ v)) →
    resolve ts = .error .malformedInstruction) ∧
  (∀ (here : Word) (r : Reg),
    assemble here ⟨none, "INC", [.reg16 r]⟩ = .ok [[0x40#8 ||| r.code.setWidth 8]] ∧
    assemble here ⟨none, "DEC", [.reg16 r]⟩ = .ok [[0x48#8 ||| r.code.setWidth 8]] ∧
    assemble here ⟨none, "XCHG", [.reg8 r, .mem none [.reg .bx]]⟩ = .ok [[0x86, 0x07#8 ||| r.code.setWidth 8 <<< 3]]) ∧
  (∀ (here : Word) (a : AsmOperand),
    assemble here ⟨none, "LOOPZ", [a]⟩ = assemble here ⟨none, "LOOPE", [a]⟩ ∧
    assemble here ⟨none, "LOOPNZ", [a]⟩ = assemble here ⟨none, "LOOPNE", [a]⟩) ∧
  (∀ (here : Word) (chars : List Byte) (v : Int) (as : List AsmOperand) (rep : String),
    assemble here ⟨none, "DB", [.text chars]⟩ = .ok [chars] ∧
    (0 ≤ v → v < 0x100 → assemble here ⟨none, "DB", [.num v]⟩ = .ok [[BitVec.ofInt 8 v]]) ∧
    (v < 0 ∨ 0x100 ≤ v → assemble here ⟨none, "DB", [.num v]⟩ = .error .malformedInstruction) ∧
    assemble here ⟨none, "DB", []⟩ = .error .malformedInstruction ∧
    assemble here ⟨some rep, "DB", as⟩ = .error .malformedInstruction)

end Slice0
end

