-- ==== Sys2Proof/Laws/Decode.lean ====
section
/-! SUPPORT. What each field reader and row shape of the decoder makes of the encoder's bytes. -/

namespace Sys2Proof

@[simp] theorem Reg.ofCode_code (r : Reg) : Reg.ofCode r.code = r := by cases r <;> rfl

@[simp] theorem SReg.ofCode_code (r : SReg) : SReg.ofCode r.code = some r := by cases r <;> rfl

@[simp] theorem EABase.ofCode_code (b : EABase) : EABase.ofCode b.code = b := by cases b <;> rfl

theorem EABase.code_ne_six (b : EABase) (h : b ≠ .bp) : b.code ≠ 6#3 := by
  cases b <;> first | decide | exact absurd rfl h

/-! ## Fields -/

theorem takeWord_bytes (v : Word) (bs : List Byte) (n : Nat) (k : Word → List Byte → Nat → Decoded) :
    takeWord (wordBytes v ++ bs) n k = k v bs (n + 2) := by
  have h : v.extractLsb' 8 8 ++ v.extractLsb' 0 8 = v := by
    apply BitVec.eq_of_getLsbD_eq
    intro i hi
    simp only [BitVec.getLsbD_append, BitVec.getLsbD_extractLsb']
    split
    · rename_i h8; simp [h8]
    · rename_i h8; simp only [show i - 8 < 8 by omega, decide_true, Bool.true_and]; congr 1; omega
  show k (v.extractLsb' 8 8 ++ v.extractLsb' 0 8) bs (n + 1 + 1) = _
  rw [h]

theorem takeDword_bytes (v : Dword) (bs : List Byte) (n : Nat) (k : Dword → List Byte → Nat → Decoded) :
    takeDword (dwordBytes v ++ bs) n k = k v bs (n + 4) := by
  have h : (v.extractLsb' 24 8 ++ v.extractLsb' 16 8) ++ (v.extractLsb' 8 8 ++ v.extractLsb' 0 8) = v := by
    apply BitVec.eq_of_getLsbD_eq
    intro i hi
    simp only [BitVec.getLsbD_append, BitVec.getLsbD_extractLsb']
    by_cases h8 : i < 8
    · simp [h8, show i < 8 + 8 by omega]
    · by_cases h16 : i < 16
      · simp only [h8, h16, if_true, if_false, show i - 8 < 8 by omega, decide_true,
          Bool.true_and]
        congr 1; omega
      · by_cases h24 : i < 24
        · simp only [h8, show ¬ i < 8 + 8 by omega, if_false, show i - (8 + 8) < 8 by omega, if_true, decide_true,
            Bool.true_and]
          congr 1; omega
        · simp only [h8, show ¬ i < 8 + 8 by omega, if_false, show ¬ i - (8 + 8) < 8 by omega,
            show i - (8 + 8) - 8 < 8 by omega, decide_true, Bool.true_and]
          congr 1; omega
  show k ((v.extractLsb' 24 8 ++ v.extractLsb' 16 8) ++ (v.extractLsb' 8 8 ++ v.extractLsb' 0 8)) bs
    (n + 1 + 1 + 1 + 1) = _
  rw [h]

theorem immFits_o16 (imm : Dword) (h : immFits .o16 imm = true) : (imm.extractLsb' 0 16).setWidth 32 = imm := by
  have h' : imm.extractLsb' 16 16 = 0#16 := by simpa [immFits] using h
  apply BitVec.eq_of_getLsbD_eq
  intro i hi
  simp only [BitVec.getLsbD_setWidth, BitVec.getLsbD_extractLsb']
  by_cases h16 : i < 16
  · simp [h16, hi]
  · have := congrArg (fun x => x.getLsbD (i - 16)) h'
    simp only [BitVec.getLsbD_extractLsb', BitVec.getLsbD_zero] at this
    simp only [show i - 16 < 16 by omega, show 16 + (i - 16) = i by omega, decide_true, Bool.true_and] at this
    simp [h16, this]

theorem takeIv_bytes (o : OSize) (imm : Dword) (bs : List Byte) (n : Nat) (k : Dword → List Byte → Nat → Decoded)
    (h : immFits o imm = true) : takeIv o (ivBytes o imm ++ bs) n k = k imm bs (n + o.width.bytes) := by
  cases o with
  | o16 =>
    refine (takeWord_bytes (imm.extractLsb' 0 16) bs n (fun v bs n => k (v.setWidth 32) bs n)).trans ?_
    rw [immFits_o16 imm h]
  | o32 => exact takeDword_bytes imm bs n k

theorem ivBytes_length (o : OSize) (imm : Dword) : (ivBytes o imm).length = o.width.bytes := by cases o <;> rfl

theorem modrm_mod (mod : BitVec 2) (reg rm : BitVec 3) : (modrmByte mod reg rm).extractLsb' 6 2 = mod := by
  revert mod reg rm; decide

theorem modrm_reg (mod : BitVec 2) (reg rm : BitVec 3) : (modrmByte mod reg rm).extractLsb' 3 3 = reg := by
  revert mod reg rm; decide

theorem modrm_rm (mod : BitVec 2) (reg rm : BitVec 3) : (modrmByte mod reg rm).extractLsb' 0 3 = rm := by
  revert mod reg rm; decide

theorem takeModRM_cons (mod : BitVec 2) (reg rm : BitVec 3) (bs : List Byte) (n : Nat)
    (k : BitVec 2 → BitVec 3 → BitVec 3 → List Byte → Nat → Decoded) :
    takeModRM (modrmByte mod reg rm :: bs) n k = k mod reg rm bs (n + 1) := by
  show k ((modrmByte mod reg rm).extractLsb' 6 2) ((modrmByte mod reg rm).extractLsb' 3 3)
    ((modrmByte mod reg rm).extractLsb' 0 3) bs (n + 1) = _
  rw [modrm_mod, modrm_reg, modrm_rm]

/-! ## ModR/M operands -/

/-- The `mod` field of a memory form. -/
def MemForm.mod : MemForm → BitVec 2
  | .base _ => 0
  | .direct _ => 0
  | .disp8 _ _ => 1
  | .disp16 _ _ => 2

/-- The `rm` field of a memory form. -/
def MemForm.rm : MemForm → BitVec 3
  | .base b => b.code
  | .direct _ => 6
  | .disp8 b _ => b.code
  | .disp16 b _ => b.code

/-- The displacement bytes of a memory form. -/
def MemForm.disp : MemForm → List Byte
  | .base _ => []
  | .direct d => wordBytes d
  | .disp8 _ d => [d]
  | .disp16 _ d => wordBytes d

/-- The `mod` field of an `E` operand. -/
def RM.mod : RM → BitVec 2
  | .reg _ => 3
  | .mem m => m.form.mod

/-- The `rm` field of an `E` operand. -/
def RM.rm : RM → BitVec 3
  | .reg r => r.code
  | .mem m => m.form.rm

/-- The displacement bytes of an `E` operand. -/
def RM.disp : RM → List Byte
  | .reg _ => []
  | .mem m => m.form.disp

theorem formBytes_eq (reg : BitVec 3) (f : MemForm) : formBytes reg f = modrmByte f.mod reg f.rm :: f.disp := by
  cases f <;> rfl

theorem eBytes_eq (reg : BitVec 3) (e : RM) : eBytes reg e = modrmByte e.mod reg e.rm :: e.disp := by
  cases e with
  | reg r => rfl
  | mem m => exact formBytes_eq reg m.form

theorem MemForm.mod_ne_three (f : MemForm) : f.mod ≠ 3#2 := by
  cases f <;> simp [MemForm.mod]

theorem takeForm_disp (f : MemForm) (bs : List Byte) (n : Nat) (k : MemForm → List Byte → Nat → Decoded)
    (h : f.wf = true) : takeForm f.mod f.rm (f.disp ++ bs) n k = k f bs (n + f.disp.length) := by
  cases f with
  | base b =>
    have hb : b ≠ .bp := by simpa [MemForm.wf] using h
    show (if b.code = 6#3 then _ else k (.base (EABase.ofCode b.code)) bs n) = _
    rw [if_neg (b.code_ne_six hb), EABase.ofCode_code]; rfl
  | direct d => exact takeWord_bytes d bs n (fun d bs n => k (.direct d) bs n)
  | disp8 b d =>
    show k (.disp8 (EABase.ofCode b.code) d) bs (n + 1) = _
    rw [EABase.ofCode_code]; rfl
  | disp16 b d =>
    refine (takeWord_bytes d bs n (fun d bs n => k (.disp16 (EABase.ofCode b.code) d) bs n)).trans ?_
    rw [EABase.ofCode_code]; rfl

theorem takeE_disp (p : Prefixes) (e : RM) (bs : List Byte) (n : Nat) (k : RM → List Byte → Nat → Decoded)
    (h : e.wf = true) (hp : e.ovr = p.segOvr ∨ ∃ r, e = .reg r) :
    takeE p e.mod e.rm (e.disp ++ bs) n k = k e bs (n + e.disp.length) := by
  cases e with
  | reg r =>
    show (if 3#2 = 3#2 then k (.reg (Reg.ofCode r.code)) bs n else _) = _
    rw [if_pos rfl, Reg.ofCode_code]; rfl
  | mem m =>
    have ho : m.ovr = p.segOvr := by
      rcases hp with h | ⟨r, h⟩
      · exact h
      · exact absurd h (by simp)
    show (if m.form.mod = 3#2 then _ else takeForm m.form.mod m.form.rm (m.form.disp ++ bs) n _) = _
    rw [if_neg m.form.mod_ne_three, takeForm_disp m.form bs n _ h, ← ho]; rfl

theorem takeModRM_e (reg : BitVec 3) (e : RM) (bs : List Byte) (n : Nat)
    (k : BitVec 2 → BitVec 3 → BitVec 3 → List Byte → Nat → Decoded) :
    takeModRM (eBytes reg e ++ bs) n k = k e.mod reg e.rm (e.disp ++ bs) (n + 1) := by
  rw [eBytes_eq]; exact takeModRM_cons _ _ _ _ _ _

theorem takeModRM_m (reg : BitVec 3) (f : MemForm) (bs : List Byte) (n : Nat)
    (k : BitVec 2 → BitVec 3 → BitVec 3 → List Byte → Nat → Decoded) :
    takeModRM (formBytes reg f ++ bs) n k = k f.mod reg f.rm (f.disp ++ bs) (n + 1) := by
  rw [formBytes_eq]; exact takeModRM_cons _ _ _ _ _ _

theorem eBytes_length (reg : BitVec 3) (e : RM) : (eBytes reg e).length = e.disp.length + 1 := by rw [eBytes_eq]; rfl

theorem formBytes_length (reg : BitVec 3) (f : MemForm) : (formBytes reg f).length = f.disp.length + 1 := by
  rw [formBytes_eq]; rfl

/-! ## Row shapes -/

/-- A row under prefixes that it admits. -/
theorem checkRow_ok (p : Prefixes) (v : Bool) (n : Nat) (k : Decoded) (ho : p.osz = .o32 → v = true) (hr : p.rep = none) :
    checkRow p v n k = k := by
  unfold checkRow
  rw [if_neg (fun h => absurd (ho h.1) (by simp [h.2])), if_neg (fun h => h hr)]

theorem rowNone_ok (p : Prefixes) (v : Bool) (n : Nat) (i : Instr) (ho : p.osz = .o32 → v = true) (hr : p.rep = none) :
    rowNone p v n i = .ok i n := checkRow_ok p v n _ ho hr

theorem rowIb_ok (p : Prefixes) (v : Bool) (b : Byte) (bs : List Byte) (n : Nat) (mk : Byte → Instr)
    (ho : p.osz = .o32 → v = true) (hr : p.rep = none) : rowIb p v (b :: bs) n mk = .ok (mk b) (n + 1) :=
  checkRow_ok p v n _ ho hr

theorem rowIw_ok (p : Prefixes) (v : Bool) (w : Word) (bs : List Byte) (n : Nat) (mk : Word → Instr)
    (ho : p.osz = .o32 → v = true) (hr : p.rep = none) : rowIw p v (wordBytes w ++ bs) n mk = .ok (mk w) (n + 2) :=
  (checkRow_ok p v n _ ho hr).trans (takeWord_bytes w bs n _)

theorem rowIv_ok (p : Prefixes) (imm : Dword) (bs : List Byte) (n : Nat) (mk : Dword → Instr)
    (h : immFits p.osz imm = true) (hr : p.rep = none) :
    rowIv p (ivBytes p.osz imm ++ bs) n mk = .ok (mk imm) (n + p.osz.width.bytes) :=
  (checkRow_ok p true n _ (fun _ => rfl) hr).trans (takeIv_bytes p.osz imm bs n _ h)

theorem rowFar_ok (p : Prefixes) (off sel : Word) (bs : List Byte) (n : Nat) (mk : Word → Word → Instr)
    (ho : p.osz = .o16) (hr : p.rep = none) :
    rowFar p (wordBytes off ++ (wordBytes sel ++ bs)) n mk = .ok (mk sel off) (n + 4) :=
  ((checkRow_ok p false n _ (fun h => absurd (ho.symm.trans h) (by decide)) hr).trans (takeWord_bytes off _ n _)).trans
    (takeWord_bytes sel bs (n + 2) _)

theorem tailE_ok (p : Prefixes) (v : Bool) (e : RM) (bs : List Byte) (n : Nat) (mk : RM → Instr) (h : e.wf = true)
    (hp : e.ovr = p.segOvr ∨ ∃ r, e = .reg r) (ho : p.osz = .o32 → v = true) (hr : p.rep = none) :
    tailE p v e.mod e.rm (e.disp ++ bs) n mk = .ok (mk e) (n + e.disp.length) :=
  (checkRow_ok p v n _ ho hr).trans (takeE_disp p e bs n _ h hp)

theorem tailEIb_ok (p : Prefixes) (v : Bool) (e : RM) (b : Byte) (bs : List Byte) (n : Nat) (mk : RM → Byte → Instr)
    (h : e.wf = true) (hp : e.ovr = p.segOvr ∨ ∃ r, e = .reg r) (ho : p.osz = .o32 → v = true) (hr : p.rep = none) :
    tailEIb p v e.mod e.rm (e.disp ++ (b :: bs)) n mk = .ok (mk e b) (n + e.disp.length + 1) :=
  (checkRow_ok p v n _ ho hr).trans (takeE_disp p e (b :: bs) n _ h hp)

theorem tailEIv_ok (p : Prefixes) (e : RM) (imm : Dword) (bs : List Byte) (n : Nat) (mk : RM → Dword → Instr)
    (h : e.wf = true) (hi : immFits p.osz imm = true) (hp : e.ovr = p.segOvr ∨ ∃ r, e = .reg r) (hr : p.rep = none) :
    tailEIv p e.mod e.rm (e.disp ++ (ivBytes p.osz imm ++ bs)) n mk =
      .ok (mk e imm) (n + e.disp.length + p.osz.width.bytes) :=
  ((checkRow_ok p true n _ (fun _ => rfl) hr).trans (takeE_disp p e _ n _ h hp)).trans (takeIv_bytes p.osz imm bs _ _ hi)

theorem tailM_ok (p : Prefixes) (v : Bool) (m : MemRef) (bs : List Byte) (n : Nat) (mk : MemRef → Instr)
    (h : m.wf = true) (hp : m.ovr = p.segOvr) (ho : p.osz = .o32 → v = true) (hr : p.rep = none) :
    tailM p v m.form.mod m.form.rm (m.form.disp ++ bs) n mk = .ok (mk m) (n + m.form.disp.length) := by
  refine (checkRow_ok p v n _ ho hr).trans ?_
  rw [if_neg m.form.mod_ne_three, takeForm_disp m.form bs n _ h, ← hp]

theorem rowEG_ok (p : Prefixes) (v : Bool) (e : RM) (g : Reg) (bs : List Byte) (n : Nat) (mk : RM → Reg → Instr)
    (h : e.wf = true) (hp : e.ovr = p.segOvr ∨ ∃ r, e = .reg r) (ho : p.osz = .o32 → v = true) (hr : p.rep = none) :
    rowEG p v (eBytes g.code e ++ bs) n mk = .ok (mk e g) (n + 1 + e.disp.length) := by
  refine (takeModRM_e g.code e bs n _).trans ?_
  rw [Reg.ofCode_code]
  exact tailE_ok p v e bs (n + 1) _ h hp ho hr

theorem rowGM_ok (p : Prefixes) (m : MemRef) (g : Reg) (bs : List Byte) (n : Nat) (mk : Reg → MemRef → Instr)
    (h : m.wf = true) (hp : m.ovr = p.segOvr) (hr : p.rep = none) :
    rowGM p (formBytes g.code m.form ++ bs) n mk = .ok (mk g m) (n + 1 + m.form.disp.length) := by
  refine (takeModRM_m g.code m.form bs n _).trans ?_
  rw [Reg.ofCode_code]
  exact tailM_ok p true m bs (n + 1) _ h hp (fun _ => rfl) hr

theorem rowFromSreg_ok (p : Prefixes) (e : RM) (r : SReg) (bs : List Byte) (n : Nat) (h : e.wf = true)
    (hp : e.ovr = p.segOvr ∨ ∃ r, e = .reg r) (ho : p.osz = .o16) (hr : p.rep = none) :
    rowFromSreg p (eBytes r.code e ++ bs) n = .ok (.movEwSw e r) (n + 1 + e.disp.length) := by
  refine (takeModRM_e r.code e bs n _).trans ?_
  rw [checkRow_ok p false _ _ (fun h => absurd (ho.symm.trans h) (by decide)) hr, SReg.ofCode_code]
  exact takeE_disp p e bs (n + 1) _ h hp

theorem rowToSreg_ok (p : Prefixes) (e : RM) (r : SReg) (bs : List Byte) (n : Nat) (h : e.wf = true) (hc : r ≠ .cs)
    (hp : e.ovr = p.segOvr ∨ ∃ r, e = .reg r) (ho : p.osz = .o16) (hr : p.rep = none) :
    rowToSreg p (eBytes r.code e ++ bs) n = .ok (.movSwEw r e) (n + 1 + e.disp.length) := by
  refine (takeModRM_e r.code e bs n _).trans ?_
  rw [checkRow_ok p false _ _ (fun h => absurd (ho.symm.trans h) (by decide)) hr, SReg.ofCode_code]
  cases r <;> first | exact absurd rfl hc | exact takeE_disp p e bs (n + 1) _ h hp

end Sys2Proof
end

