-- ==== Sys2Proof/Laws/Forms.lean ====
section
/-! SUPPORT. The families of Safety.lean tied to the meanings: an instruction of a form runs that form's shared meaning. -/

namespace Sys2Proof.Machine

theorem exec_binaryForm {i : Instr} {s : State} {f : BinaryForm} (h : binaryForm i s = some f) :
    exec i s = binaryAlu f.op f.w f.dst f.src s := by
  cases i <;> cases h <;> rfl

theorem exec_testForm {i : Instr} {s : State} {f : PairForm} (h : testForm i s = some f) :
    exec i s = testAlu f.w f.dst f.src s := by
  cases i <;> cases h <;> rfl

theorem exec_unaryForm {i : Instr} {s : State} {f : UnaryForm} (h : unaryForm i s = some f) :
    exec i s = unaryAlu f.op f.w f.dst s := by
  cases i <;> cases h <;> rfl

/-- The meaning of a multiply or divide form. -/
def mulDivMeaning (f : MulDivForm) (s : State) : Result :=
  match f.op with
  | .mul => mulOp f.w f.src s
  | .imul => imulOp f.w f.src s
  | .div => divOp f.w f.src s
  | .idiv => idivOp f.w f.src s

theorem exec_mulDivForm {i : Instr} {s : State} {f : MulDivForm} (h : mulDivForm i s = some f) :
    exec i s = mulDivMeaning f s := by
  cases i <;> cases h <;> rfl

theorem exec_shiftForm {i : Instr} {s : State} {f : ShiftForm} (h : shiftForm i s = some f) :
    exec i s = shiftOp f.op f.w f.dst f.count s := by
  cases i <;> cases h <;> rfl

theorem exec_shortJump {i : Instr} {c : Cond} {d : Byte} (s : State) (h : shortJump i = some (c, d)) :
    exec i s = jumpIf (c.holds s.flags) d s := by
  cases i <;> cases h <;> rfl

theorem exec_stringForm {i : Instr} {f : StringForm} (s : State) (h : stringForm i = some f) :
    exec i s = stringOnce f.op f.w f.ovr s := by
  cases i <;> cases h <;> rfl

theorem exec_repeatForm {i : Instr} {f : RepeatForm} (s : State) (h : repeatForm i = some f) :
    exec i s = stringRepeat f.op f.w f.ovr f.kind s := by
  cases i <;> cases h <;> rfl

theorem exec_moveForm {i : Instr} {s : State} {f : PairForm} (h : moveForm i s = some f) :
    exec i s = moveOp f.w f.dst f.src s := by
  cases i <;> cases h <;> rfl

theorem exec_exchangeForm {i : Instr} {s : State} {f : PairForm} (h : exchangeForm i s = some f) :
    exec i s = exchangeOp f.w f.dst f.src s := by
  cases i <;> cases h <;> rfl

/-- The second operand of an exchange is a register. -/
theorem exchangeForm_src {i : Instr} {s : State} {f : PairForm} (h : exchangeForm i s = some f) : ∃ r, f.src = .reg r := by
  cases i <;> cases h <;> exact ⟨_, rfl⟩

theorem exec_farLoadForm {i : Instr} {f : FarLoadForm} (s : State) (h : farLoadForm i = some f) :
    exec i s = loadFarPointer f.seg f.o f.g f.m s := by
  cases i <;> cases h <;> rfl

/-- Every PUSH form is `pushOperand`: reading a segment register always succeeds. -/
theorem exec_pushForm {i : Instr} {s : State} {op : Operand} (h : pushForm i s = some op) :
    exec i s = pushOperand op s := by
  cases i <;> cases h <;> rfl

theorem exec_popForm {i : Instr} {s : State} {op : Operand} (h : popForm i s = some op) :
    exec i s = popOperand op s := by
  cases i <;> cases h <;> rfl

/-- POP never pops into an immediate. -/
theorem popForm_not_imm {i : Instr} {s : State} {op : Operand} (h : popForm i s = some op) : ∀ v, op ≠ .imm v := by
  cases i <;> cases h <;> intro v hv <;> first | cases hv | (rename_i e; cases e <;> cases hv)

end Sys2Proof.Machine
end

