-- ==== Sys2Proof/Laws/Memory.lean ====
section
/-! SUPPORT. The laws of memory: read after write, little-endian loads and stores, and that every memory operation keeps
the canonical form (`Memory.wf`) and stays below `MEM_SIZE`. -/

namespace Sys2Proof.Machine

/-! ## One byte -/

/-- No entry at or below `p`: `p` reads as unlisted. -/
theorem Memory.read_of_above (m : Memory) (p : Nat) (h : ∀ x ∈ m, p < x.1) : Memory.read m p = Memory.unlisted := by
  induction m with
  | nil => rfl
  | cons d m ih =>
    simp only [Memory.read]
    rw [if_neg (by have := h d (by simp); omega)]
    exact ih fun x hx => h x (by simp [hx])

theorem Memory.read_write_self (m : Memory) (p : Nat) (v : Byte) (h : Memory.wf m) :
    Memory.read (Memory.write m p v) p = v := by
  induction m with
  | nil =>
    by_cases hv : v = Memory.unlisted <;> simp [Memory.write, Memory.read, hv]
  | cons c m ih =>
    obtain ⟨hp, hn⟩ := h
    have hp' := List.pairwise_cons.mp hp
    simp only [Memory.write]
    split
    · by_cases hv : v = Memory.unlisted
      · simp only [hv, if_true]
        refine Memory.read_of_above _ _ fun x hx => ?_
        rcases List.mem_cons.mp hx with rfl | hx
        · assumption
        · have := hp'.1 x hx; omega
      · simp [hv, Memory.read]
    · split
      · rename_i hlt heq
        by_cases hv : v = Memory.unlisted
        · simp only [hv, if_true]
          exact Memory.read_of_above _ _ fun x hx => heq ▸ hp'.1 x hx
        · simp [hv, Memory.read]
      · rename_i hlt hne
        simp only [Memory.read, hne, if_false]
        exact ih ⟨hp'.2, fun c hc => hn c (by simp [hc])⟩

theorem Memory.read_write_ne (m : Memory) (p q : Nat) (v : Byte) (h : q ≠ p) :
    Memory.read (Memory.write m p v) q = Memory.read m q := by
  induction m with
  | nil =>
    simp only [Memory.write]
    split
    · rfl
    · simp [Memory.read, Ne.symm h]
  | cons c m ih =>
    simp only [Memory.write]
    split
    · split
      · rfl
      · simp [Memory.read, Ne.symm h]
    · split
      · rename_i hc
        split
        · simp only [Memory.read]; rw [if_neg (by omega)]
        · simp only [Memory.read]; rw [if_neg (by omega), if_neg (by omega)]
      · simp only [Memory.read, ih]

/-- A byte written is read back, every other byte is as before (20_memory.md R74). -/
theorem Memory.read_write (m : Memory) (p q : Nat) (v : Byte) (h : Memory.wf m) :
    Memory.read (Memory.write m p v) q = if q = p then v else Memory.read m q := by
  by_cases hq : q = p
  · subst hq; simp [Memory.read_write_self m q v h]
  · simp [hq, Memory.read_write_ne m p q v hq]

theorem Memory.mem_write (m : Memory) (p : Nat) (v : Byte) (c : Host.Cell) (h : c ∈ Memory.write m p v) :
    c = (p, v) ∧ v ≠ Memory.unlisted ∨ c ∈ m := by
  induction m with
  | nil =>
    simp only [Memory.write] at h
    split at h
    · exact absurd h (by simp)
    · exact .inl ⟨by simpa using h, by assumption⟩
  | cons d m ih =>
    simp only [Memory.write] at h
    split at h
    · split at h
      · exact .inr h
      · rcases List.mem_cons.mp h with h | h
        · exact .inl ⟨h, by assumption⟩
        · exact .inr h
    · split at h
      · split at h
        · exact .inr (by simp [h])
        · rcases List.mem_cons.mp h with h | h
          · exact .inl ⟨h, by assumption⟩
          · exact .inr (by simp [h])
      · rcases List.mem_cons.mp h with h | h
        · exact .inr (by simp [h])
        · rcases ih h with h | h
          · exact .inl h
          · exact .inr (by simp [h])

/-- A write keeps the canonical form. -/
theorem Memory.write_wf (m : Memory) (p : Nat) (v : Byte) (h : Memory.wf m) : Memory.wf (Memory.write m p v) := by
  refine ⟨?_, fun c hc => ?_⟩
  · induction m with
    | nil => simp only [Memory.write]; split <;> simp
    | cons d m ih =>
      obtain ⟨hp, hn⟩ := h
      have hp' := List.pairwise_cons.mp hp
      simp only [Memory.write]
      split
      · split
        · exact hp
        · refine List.pairwise_cons.mpr ⟨fun x hx => ?_, hp⟩
          rcases List.mem_cons.mp hx with rfl | hx
          · assumption
          · have := hp'.1 x hx; simp only; omega
      · split
        · rename_i heq
          split
          · exact hp'.2
          · exact List.pairwise_cons.mpr ⟨fun x hx => by have := hp'.1 x hx; simp only; omega, hp'.2⟩
        · rename_i hlt hne
          refine List.pairwise_cons.mpr ⟨fun x hx => ?_, ih ⟨hp'.2, fun c hc => hn c (by simp [hc])⟩⟩
          rcases Memory.mem_write m p v x hx with ⟨rfl, -⟩ | hx
          · simp only; omega
          · exact hp'.1 x hx
  · rcases Memory.mem_write m p v c hc with ⟨rfl, hv⟩ | hc
    · exact hv
    · exact h.2 c hc

/-- A write below a bound keeps memory below it. -/
theorem Memory.write_below (m : Memory) (p : Nat) (v : Byte) (N : Nat) (hp : p < N) (h : ∀ c ∈ m, c.1 < N) :
    ∀ c ∈ Memory.write m p v, c.1 < N := by
  intro c hc
  rcases Memory.mem_write m p v c hc with ⟨rfl, -⟩ | hc
  · exact hp
  · exact h c hc

/-- Equal reads, equal memories: the canonical form is unique. -/
theorem Memory.ext (m n : Memory) (hm : Memory.wf m) (hn : Memory.wf n) (h : ∀ p, Memory.read m p = Memory.read n p) :
    m = n := by
  induction m generalizing n with
  | nil =>
    cases n with
    | nil => rfl
    | cons d n =>
      have := h d.1
      simp only [Memory.read, if_true] at this
      exact absurd this.symm (hn.2 d (by simp))
  | cons c m ih =>
    have hm' := List.pairwise_cons.mp hm.1
    cases n with
    | nil =>
      have := h c.1
      simp only [Memory.read, if_true] at this
      exact absurd this (hm.2 c (by simp))
    | cons d n =>
      have hn' := List.pairwise_cons.mp hn.1
      have hcd : c.1 = d.1 := by
        rcases Nat.lt_trichotomy c.1 d.1 with hlt | heq | hlt
        · have h1 := h c.1
          rw [Memory.read_of_above (d :: n) c.1 (fun x hx => by
            rcases List.mem_cons.mp hx with rfl | hx
            · exact hlt
            · have := hn'.1 x hx; omega)] at h1
          simp only [Memory.read, if_true] at h1
          exact absurd h1 (hm.2 c (by simp))
        · exact heq
        · have h1 := h d.1
          rw [Memory.read_of_above (c :: m) d.1 (fun x hx => by
            rcases List.mem_cons.mp hx with rfl | hx
            · exact hlt
            · have := hm'.1 x hx; omega)] at h1
          simp only [Memory.read, if_true] at h1
          exact absurd h1.symm (hn.2 d (by simp))
      have hv : c.2 = d.2 := by
        have := h c.1
        simp only [Memory.read, hcd, if_true] at this
        exact this
      have hc : c = d := Prod.ext hcd hv
      subst hc
      congr 1
      refine ih n ⟨hm'.2, fun x hx => hm.2 x (by simp [hx])⟩ ⟨hn'.2, fun x hx => hn.2 x (by simp [hx])⟩ fun p => ?_
      by_cases hp : c.1 = p
      · subst hp
        rw [Memory.read_of_above m c.1 hm'.1, Memory.read_of_above n c.1 hn'.1]
      · have := h p
        simpa only [Memory.read, hp, if_false] using this

/-! ## Several bytes -/

/-- `p + j`, j < n, is in the range of n bytes at `p`, and nothing else is. -/
theorem mem_byteRange (p n a : Nat) : a ∈ byteRange p n ↔ p ≤ a ∧ a < p + n := by
  simp only [byteRange, List.mem_map, List.mem_range]
  constructor
  · rintro ⟨j, hj, rfl⟩; omega
  · intro h; exact ⟨a - p, by omega, by omega⟩

theorem Memory.store_wf (m : Memory) (p v n : Nat) (h : Memory.wf m) : Memory.wf (Memory.store m p v n) := by
  induction n with
  | zero => exact h
  | succ n ih => exact Memory.write_wf _ _ _ ih

theorem Memory.store_below (m : Memory) (p v n N : Nat) (hp : p + n ≤ N) (h : ∀ c ∈ m, c.1 < N) :
    ∀ c ∈ Memory.store m p v n, c.1 < N := by
  induction n with
  | zero => exact h
  | succ n ih => exact Memory.write_below _ _ _ _ (by omega) (ih (by omega))

/-- Byte a after a store: byte a - p of the value inside the stored bytes, else as before (20_memory.md R74, R76). -/
theorem Memory.read_store (m : Memory) (p v n a : Nat) (h : Memory.wf m) :
    Memory.read (Memory.store m p v n) a =
      if p ≤ a ∧ a < p + n then BitVec.ofNat 8 (v / 2 ^ (8 * (a - p))) else Memory.read m a := by
  induction n with
  | zero => simp only [Memory.store]; rw [if_neg (by omega)]
  | succ n ih =>
    simp only [Memory.store]
    rw [Memory.read_write _ _ _ _ (Memory.store_wf m p v n h), ih]
    by_cases ha : a = p + n
    · subst ha
      rw [if_pos rfl, if_pos (by omega)]
      congr 3; omega
    · rw [if_neg ha]
      by_cases hb : p ≤ a ∧ a < p + n
      · rw [if_pos hb, if_pos (by omega)]
      · rw [if_neg hb, if_neg (by omega)]

/-- A byte outside a store is as before, canonical form or not. -/
theorem Memory.read_store_outside (m : Memory) (p v n a : Nat) (h : a < p ∨ p + n ≤ a) :
    Memory.read (Memory.store m p v n) a = Memory.read m a := by
  induction n with
  | zero => rfl
  | succ n ih => exact (Memory.read_write_ne _ _ _ _ (by omega)).trans (ih (by omega))

theorem Memory.load_congr (m m' : Memory) (p n : Nat) (h : ∀ a, p ≤ a → a < p + n → Memory.read m' a = Memory.read m a) :
    Memory.load m' p n = Memory.load m p n := by
  induction n with
  | zero => rfl
  | succ n ih =>
    simp only [Memory.load]
    rw [ih fun a h1 h2 => h a h1 (by omega), h (p + n) (by omega) (by omega)]

theorem Memory.load_lt (m : Memory) (p n : Nat) : Memory.load m p n < 2 ^ (8 * n) := by
  induction n with
  | zero => simp [Memory.load]
  | succ n ih =>
    simp only [Memory.load]
    have h1 := (Memory.read m (p + n)).isLt
    have h2 : 2 ^ (8 * (n + 1)) = 2 ^ 8 * 2 ^ (8 * n) := by rw [← Nat.pow_add]; congr 1; omega
    have h3 : (Memory.read m (p + n)).toNat * 2 ^ (8 * n) ≤ 255 * 2 ^ (8 * n) := Nat.mul_le_mul_right _ (by omega)
    omega

/-- A value stored is loaded back, reduced to the bytes stored (20_memory.md R74). -/
theorem Memory.load_store (m : Memory) (p v n : Nat) (h : Memory.wf m) :
    Memory.load (Memory.store m p v n) p n = v % 2 ^ (8 * n) := by
  have key : ∀ k, k ≤ n → Memory.load (Memory.store m p v n) p k = v % 2 ^ (8 * k) := by
    intro k
    induction k with
    | zero => intro _; simp [Memory.load, Nat.mod_one]
    | succ k ih =>
      intro hk
      simp only [Memory.load]
      rw [ih (by omega), Memory.read_store m p v n _ h, if_pos (by omega)]
      simp only [BitVec.toNat_ofNat]
      rw [show p + k - p = k by omega, show 8 * (k + 1) = 8 * k + 8 by omega, Nat.pow_add, Nat.mod_mul]
      rw [Nat.mul_comm (v / 2 ^ (8 * k) % 2 ^ 8)]
  exact key n (Nat.le_refl n)

/-- A load of bytes that a store does not touch. -/
theorem Memory.load_store_disjoint (m : Memory) (p v n q k : Nat) (h : Memory.wf m) (hd : p + n ≤ q ∨ q + k ≤ p) :
    Memory.load (Memory.store m p v n) q k = Memory.load m q k := by
  apply Memory.load_congr
  intro a h1 h2
  rw [Memory.read_store m p v n a h, if_neg (by omega)]

/-! ## The host's bytes -/

theorem Memory.writeBytes_wf (bs : List Byte) (m : Memory) (p : Nat) (h : Memory.wf m) :
    Memory.wf (Memory.writeBytes m p bs) := by
  induction bs generalizing m p with
  | nil => exact h
  | cons b bs ih => exact ih _ _ (Memory.write_wf _ _ _ h)

theorem Memory.read_writeBytes (bs : List Byte) (m : Memory) (p a : Nat) (h : Memory.wf m) :
    Memory.read (Memory.writeBytes m p bs) a =
      if p ≤ a ∧ a < p + bs.length then bs.getD (a - p) 0 else Memory.read m a := by
  induction bs generalizing m p with
  | nil => simp only [Memory.writeBytes, List.length_nil]; rw [if_neg (by omega)]
  | cons b bs ih =>
    simp only [Memory.writeBytes, List.length_cons]
    rw [ih _ _ (Memory.write_wf _ _ _ h), Memory.read_write _ _ _ _ h]
    by_cases ha : a = p
    · subst ha
      rw [if_neg (by omega), if_pos rfl, if_pos (by omega)]; simp
    · rw [if_neg ha]
      by_cases hb : p + 1 ≤ a ∧ a < p + 1 + bs.length
      · rw [if_pos hb, if_pos (by omega), show a - p = (a - (p + 1)) + 1 by omega, List.getD_cons_succ]
      · rw [if_neg hb, if_neg (by omega)]

end Sys2Proof.Machine
end

