-- ==== Sys2Proof/Laws/State.lean ====
section
/-! SUPPORT. One lemma per field per update of State, and the register and flag accessors, so that no later proof unfolds
a record update. -/

namespace Sys2Proof.Machine

/-! `State.setGpr` -/

@[simp] theorem State.setGpr_gpr (s : State) (g : GPR) : (s.setGpr g).gpr = g := rfl
@[simp] theorem State.setGpr_sreg (s : State) (g : GPR) : (s.setGpr g).sreg = s.sreg := rfl
@[simp] theorem State.setGpr_ip (s : State) (g : GPR) : (s.setGpr g).ip = s.ip := rfl
@[simp] theorem State.setGpr_flags (s : State) (g : GPR) : (s.setGpr g).flags = s.flags := rfl
@[simp] theorem State.setGpr_mem (s : State) (g : GPR) : (s.setGpr g).mem = s.mem := rfl
@[simp] theorem State.setGpr_halted (s : State) (g : GPR) : (s.setGpr g).halted = s.halted := rfl
@[simp] theorem State.setGpr_fault (s : State) (g : GPR) : (s.setGpr g).fault = s.fault := rfl
@[simp] theorem State.setGpr_pre (s : State) (g : GPR) : (s.setGpr g).pre = s.pre := rfl
@[simp] theorem State.setGpr_k (s : State) (g : GPR) : (s.setGpr g).k = s.k := rfl
@[simp] theorem State.setGpr_params (s : State) (g : GPR) : (s.setGpr g).params = s.params := rfl
@[simp] theorem State.setGpr_draws (s : State) (g : GPR) : (s.setGpr g).draws = s.draws := rfl

/-! `State.setFlags` -/

@[simp] theorem State.setFlags_gpr (s : State) (f : Flags) : (s.setFlags f).gpr = s.gpr := rfl
@[simp] theorem State.setFlags_sreg (s : State) (f : Flags) : (s.setFlags f).sreg = s.sreg := rfl
@[simp] theorem State.setFlags_ip (s : State) (f : Flags) : (s.setFlags f).ip = s.ip := rfl
@[simp] theorem State.setFlags_flags (s : State) (f : Flags) : (s.setFlags f).flags = f := rfl
@[simp] theorem State.setFlags_mem (s : State) (f : Flags) : (s.setFlags f).mem = s.mem := rfl
@[simp] theorem State.setFlags_halted (s : State) (f : Flags) : (s.setFlags f).halted = s.halted := rfl
@[simp] theorem State.setFlags_fault (s : State) (f : Flags) : (s.setFlags f).fault = s.fault := rfl
@[simp] theorem State.setFlags_pre (s : State) (f : Flags) : (s.setFlags f).pre = s.pre := rfl
@[simp] theorem State.setFlags_k (s : State) (f : Flags) : (s.setFlags f).k = s.k := rfl
@[simp] theorem State.setFlags_params (s : State) (f : Flags) : (s.setFlags f).params = s.params := rfl
@[simp] theorem State.setFlags_draws (s : State) (f : Flags) : (s.setFlags f).draws = s.draws := rfl

/-! `State.setMem` -/

@[simp] theorem State.setMem_gpr (s : State) (m : Memory) : (s.setMem m).gpr = s.gpr := rfl
@[simp] theorem State.setMem_sreg (s : State) (m : Memory) : (s.setMem m).sreg = s.sreg := rfl
@[simp] theorem State.setMem_ip (s : State) (m : Memory) : (s.setMem m).ip = s.ip := rfl
@[simp] theorem State.setMem_flags (s : State) (m : Memory) : (s.setMem m).flags = s.flags := rfl
@[simp] theorem State.setMem_mem (s : State) (m : Memory) : (s.setMem m).mem = m := rfl
@[simp] theorem State.setMem_halted (s : State) (m : Memory) : (s.setMem m).halted = s.halted := rfl
@[simp] theorem State.setMem_fault (s : State) (m : Memory) : (s.setMem m).fault = s.fault := rfl
@[simp] theorem State.setMem_pre (s : State) (m : Memory) : (s.setMem m).pre = s.pre := rfl
@[simp] theorem State.setMem_k (s : State) (m : Memory) : (s.setMem m).k = s.k := rfl
@[simp] theorem State.setMem_params (s : State) (m : Memory) : (s.setMem m).params = s.params := rfl
@[simp] theorem State.setMem_draws (s : State) (m : Memory) : (s.setMem m).draws = s.draws := rfl

/-! `State.setIp` -/

@[simp] theorem State.setIp_gpr (s : State) (v : Word) : (s.setIp v).gpr = s.gpr := rfl
@[simp] theorem State.setIp_sreg (s : State) (v : Word) : (s.setIp v).sreg = s.sreg := rfl
@[simp] theorem State.setIp_ip (s : State) (v : Word) : (s.setIp v).ip = v := rfl
@[simp] theorem State.setIp_flags (s : State) (v : Word) : (s.setIp v).flags = s.flags := rfl
@[simp] theorem State.setIp_mem (s : State) (v : Word) : (s.setIp v).mem = s.mem := rfl
@[simp] theorem State.setIp_halted (s : State) (v : Word) : (s.setIp v).halted = s.halted := rfl
@[simp] theorem State.setIp_fault (s : State) (v : Word) : (s.setIp v).fault = s.fault := rfl
@[simp] theorem State.setIp_pre (s : State) (v : Word) : (s.setIp v).pre = s.pre := rfl
@[simp] theorem State.setIp_k (s : State) (v : Word) : (s.setIp v).k = s.k := rfl
@[simp] theorem State.setIp_params (s : State) (v : Word) : (s.setIp v).params = s.params := rfl
@[simp] theorem State.setIp_draws (s : State) (v : Word) : (s.setIp v).draws = s.draws := rfl

/-! `State.setPre` -/

@[simp] theorem State.setPre_gpr (s : State) (p : Prefixes) : (s.setPre p).gpr = s.gpr := rfl
@[simp] theorem State.setPre_sreg (s : State) (p : Prefixes) : (s.setPre p).sreg = s.sreg := rfl
@[simp] theorem State.setPre_ip (s : State) (p : Prefixes) : (s.setPre p).ip = s.ip := rfl
@[simp] theorem State.setPre_flags (s : State) (p : Prefixes) : (s.setPre p).flags = s.flags := rfl
@[simp] theorem State.setPre_mem (s : State) (p : Prefixes) : (s.setPre p).mem = s.mem := rfl
@[simp] theorem State.setPre_halted (s : State) (p : Prefixes) : (s.setPre p).halted = s.halted := rfl
@[simp] theorem State.setPre_fault (s : State) (p : Prefixes) : (s.setPre p).fault = s.fault := rfl
@[simp] theorem State.setPre_pre (s : State) (p : Prefixes) : (s.setPre p).pre = p := rfl
@[simp] theorem State.setPre_k (s : State) (p : Prefixes) : (s.setPre p).k = s.k := rfl
@[simp] theorem State.setPre_params (s : State) (p : Prefixes) : (s.setPre p).params = s.params := rfl
@[simp] theorem State.setPre_draws (s : State) (p : Prefixes) : (s.setPre p).draws = s.draws := rfl

/-! `State.setSreg` -/

@[simp] theorem State.setSreg_gpr (s : State) (r : SReg) (v : Word) : (s.setSreg r v).gpr = s.gpr := rfl
@[simp] theorem State.setSreg_sreg (s : State) (r : SReg) (v : Word) : (s.setSreg r v).sreg = s.sreg.set r v := rfl
@[simp] theorem State.setSreg_ip (s : State) (r : SReg) (v : Word) : (s.setSreg r v).ip = s.ip := rfl
@[simp] theorem State.setSreg_flags (s : State) (r : SReg) (v : Word) : (s.setSreg r v).flags = s.flags := rfl
@[simp] theorem State.setSreg_mem (s : State) (r : SReg) (v : Word) : (s.setSreg r v).mem = s.mem := rfl
@[simp] theorem State.setSreg_halted (s : State) (r : SReg) (v : Word) : (s.setSreg r v).halted = s.halted := rfl
@[simp] theorem State.setSreg_fault (s : State) (r : SReg) (v : Word) : (s.setSreg r v).fault = s.fault := rfl
@[simp] theorem State.setSreg_pre (s : State) (r : SReg) (v : Word) : (s.setSreg r v).pre = s.pre := rfl
@[simp] theorem State.setSreg_k (s : State) (r : SReg) (v : Word) : (s.setSreg r v).k = s.k := rfl
@[simp] theorem State.setSreg_params (s : State) (r : SReg) (v : Word) : (s.setSreg r v).params = s.params := rfl
@[simp] theorem State.setSreg_draws (s : State) (r : SReg) (v : Word) : (s.setSreg r v).draws = s.draws := rfl

/-! `State.endInstr` -/

@[simp] theorem State.endInstr_gpr (s : State) : (s.endInstr).gpr = s.gpr := rfl
@[simp] theorem State.endInstr_sreg (s : State) : (s.endInstr).sreg = s.sreg := rfl
@[simp] theorem State.endInstr_ip (s : State) : (s.endInstr).ip = s.ip := rfl
@[simp] theorem State.endInstr_flags (s : State) : (s.endInstr).flags = s.flags := rfl
@[simp] theorem State.endInstr_mem (s : State) : (s.endInstr).mem = s.mem := rfl
@[simp] theorem State.endInstr_halted (s : State) : (s.endInstr).halted = s.halted := rfl
@[simp] theorem State.endInstr_fault (s : State) : (s.endInstr).fault = s.fault := rfl
@[simp] theorem State.endInstr_pre (s : State) : (s.endInstr).pre = {} := rfl
@[simp] theorem State.endInstr_k (s : State) : (s.endInstr).k = 0 := rfl
@[simp] theorem State.endInstr_params (s : State) : (s.endInstr).params = s.params := rfl
@[simp] theorem State.endInstr_draws (s : State) : (s.endInstr).draws = s.draws := rfl

/-! `State.draw` -/

@[simp] theorem State.draw_gpr (s : State) : (s.draw).gpr = s.gpr := rfl
@[simp] theorem State.draw_sreg (s : State) : (s.draw).sreg = s.sreg := rfl
@[simp] theorem State.draw_ip (s : State) : (s.draw).ip = s.ip := rfl
@[simp] theorem State.draw_flags (s : State) : (s.draw).flags = s.flags := rfl
@[simp] theorem State.draw_mem (s : State) : (s.draw).mem = s.mem := rfl
@[simp] theorem State.draw_halted (s : State) : (s.draw).halted = s.halted := rfl
@[simp] theorem State.draw_fault (s : State) : (s.draw).fault = s.fault := rfl
@[simp] theorem State.draw_pre (s : State) : (s.draw).pre = s.pre := rfl
@[simp] theorem State.draw_k (s : State) : (s.draw).k = s.k := rfl
@[simp] theorem State.draw_params (s : State) : (s.draw).params = s.params := rfl
@[simp] theorem State.draw_draws (s : State) : (s.draw).draws = s.draws + 1 := rfl

/-! `State.beginInstr` -/

@[simp] theorem State.beginInstr_gpr (s : State) : (s.beginInstr).gpr = s.gpr := rfl
@[simp] theorem State.beginInstr_sreg (s : State) : (s.beginInstr).sreg = s.sreg := rfl
@[simp] theorem State.beginInstr_ip (s : State) : (s.beginInstr).ip = s.ip := rfl
@[simp] theorem State.beginInstr_flags (s : State) : (s.beginInstr).flags = s.flags := rfl
@[simp] theorem State.beginInstr_mem (s : State) : (s.beginInstr).mem = s.mem := rfl
@[simp] theorem State.beginInstr_halted (s : State) : (s.beginInstr).halted = s.halted := rfl
@[simp] theorem State.beginInstr_fault (s : State) : (s.beginInstr).fault = s.fault := rfl
@[simp] theorem State.beginInstr_pre (s : State) : (s.beginInstr).pre = {} := rfl
@[simp] theorem State.beginInstr_k (s : State) : (s.beginInstr).k = 0 := rfl
@[simp] theorem State.beginInstr_params (s : State) : (s.beginInstr).params = s.params := rfl
@[simp] theorem State.beginInstr_draws (s : State) : (s.beginInstr).draws = s.draws := rfl

/-! `State.fetched` -/

@[simp] theorem State.fetched_gpr (s : State) (m : Nat) : (s.fetched m).gpr = s.gpr := rfl
@[simp] theorem State.fetched_sreg (s : State) (m : Nat) : (s.fetched m).sreg = s.sreg := rfl
@[simp] theorem State.fetched_ip (s : State) (m : Nat) : (s.fetched m).ip = s.ip := rfl
@[simp] theorem State.fetched_flags (s : State) (m : Nat) : (s.fetched m).flags = s.flags := rfl
@[simp] theorem State.fetched_mem (s : State) (m : Nat) : (s.fetched m).mem = s.mem := rfl
@[simp] theorem State.fetched_halted (s : State) (m : Nat) : (s.fetched m).halted = s.halted := rfl
@[simp] theorem State.fetched_fault (s : State) (m : Nat) : (s.fetched m).fault = s.fault := rfl
@[simp] theorem State.fetched_pre (s : State) (m : Nat) : (s.fetched m).pre = s.pre := rfl
@[simp] theorem State.fetched_k (s : State) (m : Nat) : (s.fetched m).k = s.k + m := rfl
@[simp] theorem State.fetched_params (s : State) (m : Nat) : (s.fetched m).params = s.params := rfl
@[simp] theorem State.fetched_draws (s : State) (m : Nat) : (s.fetched m).draws = s.draws := rfl

/-! ## Accessors -/

@[simp] theorem GPR.get_set_self (g : GPR) (r : Reg) (v : Dword) : (g.set r v).get r = v := by
  cases r <;> rfl

theorem GPR.get_set_ne (g : GPR) (r q : Reg) (v : Dword) (h : q ≠ r) : (g.set r v).get q = g.get q := by
  cases r <;> cases q <;> first | rfl | exact absurd rfl h

@[simp] theorem SegRegs.get_set_self (g : SegRegs) (r : SReg) (v : Word) : (g.set r v).get r = v := by
  cases r <;> rfl

theorem SegRegs.get_set_ne (g : SegRegs) (r q : SReg) (v : Word) (h : q ≠ r) : (g.set r v).get q = g.get q := by
  cases r <;> cases q <;> first | rfl | exact absurd rfl h

@[simp] theorem Flags.get_set_self (f : Flags) (n : FlagName) (v : Bool) : (f.set n v).get n = v := by
  cases n <;> rfl

theorem Flags.get_set_ne (f : Flags) (n m : FlagName) (v : Bool) (h : m ≠ n) : (f.set n v).get m = f.get m := by
  cases n <;> cases m <;> first | rfl | exact absurd rfl h

/-! `writeReg` touches the general registers alone. -/

@[simp] theorem writeReg_sreg (w : Width) (r : Reg) (v : BitVec w.bits) (s : State) : (writeReg w r v s).sreg = s.sreg := by
  cases w <;> rfl

@[simp] theorem writeReg_ip (w : Width) (r : Reg) (v : BitVec w.bits) (s : State) : (writeReg w r v s).ip = s.ip := by
  cases w <;> rfl

@[simp] theorem writeReg_flags (w : Width) (r : Reg) (v : BitVec w.bits) (s : State) : (writeReg w r v s).flags = s.flags := by
  cases w <;> rfl

@[simp] theorem writeReg_mem (w : Width) (r : Reg) (v : BitVec w.bits) (s : State) : (writeReg w r v s).mem = s.mem := by
  cases w <;> rfl

@[simp] theorem writeReg_halted (w : Width) (r : Reg) (v : BitVec w.bits) (s : State) : (writeReg w r v s).halted = s.halted := by
  cases w <;> rfl

@[simp] theorem writeReg_fault (w : Width) (r : Reg) (v : BitVec w.bits) (s : State) : (writeReg w r v s).fault = s.fault := by
  cases w <;> rfl

@[simp] theorem writeReg_pre (w : Width) (r : Reg) (v : BitVec w.bits) (s : State) : (writeReg w r v s).pre = s.pre := by
  cases w <;> rfl

@[simp] theorem writeReg_k (w : Width) (r : Reg) (v : BitVec w.bits) (s : State) : (writeReg w r v s).k = s.k := by
  cases w <;> rfl

@[simp] theorem writeReg_params (w : Width) (r : Reg) (v : BitVec w.bits) (s : State) : (writeReg w r v s).params = s.params := by
  cases w <;> rfl

@[simp] theorem writeReg_draws (w : Width) (r : Reg) (v : BitVec w.bits) (s : State) : (writeReg w r v s).draws = s.draws := by
  cases w <;> rfl

theorem writeReg_gpr (w : Width) (r : Reg) (v : BitVec w.bits) (s : State) :
    writeReg w r v s = s.setGpr (writeReg w r v s).gpr := by
  cases w <;> rfl

/-! ## Views (10_state.md R31, R32) -/

theorem GPR.get8_set8 (g : GPR) (r : Reg) (v : Byte) : (g.set8 r v).get8 r = v := by
  simp only [GPR.get8, GPR.set8, GPR.get_set_self]
  apply BitVec.eq_of_getLsbD_eq
  intro b hb
  split <;> simp only [BitVec.getLsbD_extractLsb', BitVec.getLsbD_append]
  · rw [if_neg (by omega)]
    simp [hb]
  · simp [hb]

theorem GPR.get16_set16 (g : GPR) (r : Reg) (v : Word) : (g.set16 r v).get16 r = v := by
  simp only [GPR.get16, GPR.set16, GPR.get_set_self]
  apply BitVec.eq_of_getLsbD_eq
  intro b hb
  simp only [BitVec.getLsbD_extractLsb', BitVec.getLsbD_append]
  simp [hb]

theorem GPR.set16_outside (g : GPR) (r q : Reg) (v : Word) (b : Nat) (h : q = r → ¬ b < 16) :
    ((g.set16 r v).get q).getLsbD b = (g.get q).getLsbD b := by
  by_cases hq : q = r
  · subst hq
    have hb := h rfl
    simp only [GPR.set16, GPR.get_set_self, BitVec.getLsbD_append, BitVec.getLsbD_extractLsb']
    rw [if_neg (by omega)]
    by_cases h2 : b < 32
    · simp only [show b - 16 < 16 by omega, decide_true, Bool.true_and]; congr 1; omega
    · rw [BitVec.getLsbD_of_ge _ b (by omega), BitVec.getLsbD_of_ge _ (16 + (b - 16)) (by omega)]; simp
  · simp only [GPR.set16, GPR.get_set_ne _ _ _ _ hq]

theorem GPR.set8_outside (g : GPR) (r q : Reg) (v : Byte) (b : Nat)
    (h : q = byteParent r → ¬ (if isHighByte r then 8 ≤ b ∧ b < 16 else b < 8)) :
    ((g.set8 r v).get q).getLsbD b = (g.get q).getLsbD b := by
  by_cases hq : q = byteParent r
  · subst hq
    have hb := h rfl
    simp only [GPR.set8, GPR.get_set_self]
    by_cases h2 : b < 32
    · split at hb <;> rename_i hh <;> simp only [hh, if_true, if_false, Bool.false_eq_true] <;>
        simp only [BitVec.getLsbD_append, BitVec.getLsbD_extractLsb']
      · by_cases h8 : b < 8
        · simp [h8]
        · have h16 : 16 ≤ b := by omega
          rw [if_neg h8, if_neg (by omega)]
          simp only [show b - 8 - 8 < 16 by omega, decide_true, Bool.true_and]; congr 1; omega
      · rw [if_neg (by omega)]
        simp only [show b - 8 < 24 by omega, decide_true, Bool.true_and]; congr 1; omega
    · rw [BitVec.getLsbD_of_ge _ b (by omega), BitVec.getLsbD_of_ge _ b (by omega)]
  · simp only [GPR.set8, GPR.get_set_ne _ _ _ _ hq]

/-- What a register write leaves in each bit of each general register: the view's bits and no other (10_state.md R32). -/
theorem writeReg_outside (w : Width) (r q : Reg) (v : BitVec w.bits) (s : State) (b : Nat)
    (h : match w with
      | .w8 => q = byteParent r → ¬ (if isHighByte r then 8 ≤ b ∧ b < 16 else b < 8)
      | .w16 => q = r → ¬ b < 16
      | .w32 => q ≠ r) :
    ((writeReg w r v s).gpr.get q).getLsbD b = (s.gpr.get q).getLsbD b := by
  cases w with
  | w8 => exact GPR.set8_outside s.gpr r q v b h
  | w16 => exact GPR.set16_outside s.gpr r q v b h
  | w32 => simp only [writeReg, State.setGpr_gpr, GPR.get_set_ne _ _ _ _ h]

/-- A view read after it is written gives the value written (10_state.md R31, R32). -/
@[simp] theorem readReg_writeReg_self (w : Width) (r : Reg) (v : BitVec w.bits) (s : State) :
    readReg w r (writeReg w r v s) = v := by
  cases w with
  | w8 => exact GPR.get8_set8 s.gpr r v
  | w16 => exact GPR.get16_set16 s.gpr r v
  | w32 => exact GPR.get_set_self s.gpr r v

/-- A view of another 32-bit register is not touched. -/
theorem readReg_writeReg_w16_ne (r q : Reg) (v : Word) (s : State) (h : q ≠ r) :
    readReg .w16 q (writeReg .w16 r v s) = readReg .w16 q s := by
  simp only [readReg, writeReg, State.setGpr_gpr, GPR.get16, GPR.set16, GPR.get_set_ne _ _ _ _ h]

theorem GPR.set_set (g : GPR) (r : Reg) (v u : Dword) : (g.set r u).set r v = g.set r v := by cases r <;> rfl

theorem GPR.set16_set16 (g : GPR) (r : Reg) (v u : Word) : (g.set16 r u).set16 r v = g.set16 r v := by
  simp only [GPR.set16, GPR.get_set_self, GPR.set_set]
  congr 2
  apply BitVec.eq_of_getLsbD_eq
  intro i hi
  rw [BitVec.getLsbD_extractLsb', BitVec.getLsbD_extractLsb', BitVec.getLsbD_append]
  simp [hi]

/-- Writing back what a 16-bit view holds changes nothing. -/
theorem GPR.set16_get16 (g : GPR) (r : Reg) : g.set16 r (g.get16 r) = g := by
  have h : ((g.get r).extractLsb' 16 16 ++ (g.get r).extractLsb' 0 16 : BitVec 32) = g.get r := by
    apply BitVec.eq_of_getLsbD_eq
    intro i hi
    rw [BitVec.getLsbD_append, BitVec.getLsbD_extractLsb', BitVec.getLsbD_extractLsb']
    by_cases h : i < 16
    · simp [h]
    · have h1 : 16 + (i - 16) = i := by omega
      have h2 : i - 16 < 16 := by omega
      simp [h, h1, h2]
  simp only [GPR.set16, GPR.get16]
  rw [h]
  cases r <;> rfl

/-- Of two writes of one 16-bit view the last one stays. -/
theorem writeReg_writeReg_w16 (r : Reg) (a b : Word) (s : State) :
    writeReg .w16 r a (writeReg .w16 r b s) = writeReg .w16 r a s := by
  show (s.setGpr (s.gpr.set16 r b)).setGpr ((s.gpr.set16 r b).set16 r a) = s.setGpr (s.gpr.set16 r a)
  rw [GPR.set16_set16]; rfl

end Sys2Proof.Machine
end

