-- ==== Sys2Proof/Laws/Ops.lean ====
section
/-! SUPPORT. What each shared operation can do, said once: bounds-checked memory, operands, the stack, fault entry, and
the two ways a meaning ends (`Good`): completed, or faulted with a record. -/

namespace Sys2Proof.Machine

/-! ## Going on or raising -/

@[simp] theorem orRaise_ok {α : Type} (s : State) (ps : List Place) (a : α) (k : α → Result) :
    orRaise s ps (.ok a) k = k a := rfl

@[simp] theorem orRaise_error {α : Type} (s : State) (ps : List Place) (c : FaultInfo) (k : α → Result) :
    orRaise s ps (.error c) k = raise c ps s := rfl

/-! ## Memory and operands inside and outside of memory (20_memory.md R74) -/

theorem bytes_pos (w : Width) : 0 < w.bytes := by cases w <;> decide

theorem bits_eq (w : Width) : w.bits = 8 * w.bytes := by cases w <;> rfl

theorem memRead_ok (w : Width) (p : Nat) (s : State) (h : inMemory p w.bytes s) : memRead w p s = .ok (memValue w p s) := by
  have := bytes_pos w
  simp only [memRead, memValue]
  rw [if_neg (by simp only [inMemory] at h; omega)]

theorem memRead_error (w : Width) (p : Nat) (s : State) (h : ¬ inMemory p w.bytes s) :
    memRead w p s = .error (.memoryFault p w.bytes .read) := by
  have := bytes_pos w
  simp only [memRead]
  rw [if_pos (by simp only [inMemory] at h; omega)]

theorem memWrite_ok (w : Width) (p : Nat) (v : BitVec w.bits) (s : State) (h : inMemory p w.bytes s) :
    memWrite w p v s = .ok (memStored w p v s) := by
  have := bytes_pos w
  simp only [memWrite, memStored]
  rw [if_neg (by simp only [inMemory] at h; omega)]

theorem memWrite_error (w : Width) (p : Nat) (v : BitVec w.bits) (s : State) (h : ¬ inMemory p w.bytes s) :
    memWrite w p v s = .error (.memoryFault p w.bytes .write) := by
  have := bytes_pos w
  simp only [memWrite]
  rw [if_pos (by simp only [inMemory] at h; omega)]

theorem readOp_ok (w : Width) (op : Operand) (s : State) (h : accessible w op s) : readOp w op s = .ok (valueOf w op s) := by
  cases op with
  | mem seg off => exact memRead_ok w _ s h
  | _ => rfl

theorem writeOp_ok (w : Width) (op : Operand) (v : BitVec w.bits) (s : State) (h : accessible w op s) :
    writeOp w op v s = .ok (stored w op v s) := by
  cases op with
  | mem seg off => exact memWrite_ok w _ v s h
  | _ => rfl

/-- A read that answers a value was inside memory, and the value is the operand's. -/
theorem readOp_inv (w : Width) (op : Operand) (s : State) (a : BitVec w.bits) (h : readOp w op s = .ok a) :
    accessible w op s ∧ a = valueOf w op s := by
  by_cases hacc : accessible w op s
  · rw [readOp_ok w op s hacc] at h
    exact ⟨hacc, (Except.ok.inj h).symm⟩
  · cases op with
    | mem seg off => rw [readOp, memRead_error w _ s hacc] at h; exact absurd h (by simp)
    | _ => exact absurd trivial hacc

/-- A write that answers a state was inside memory, and the state is the stored one. -/
theorem writeOp_inv (w : Width) (op : Operand) (v : BitVec w.bits) (s t : State) (h : writeOp w op v s = .ok t) :
    accessible w op s ∧ t = stored w op v s := by
  by_cases hacc : accessible w op s
  · rw [writeOp_ok w op v s hacc] at h
    exact ⟨hacc, (Except.ok.inj h).symm⟩
  · cases op with
    | mem seg off => rw [writeOp, memWrite_error w _ v s hacc] at h; exact absurd h (by simp)
    | _ => exact absurd trivial hacc

theorem memRead_inv (w : Width) (p : Nat) (s : State) (a : BitVec w.bits) (h : memRead w p s = .ok a) :
    inMemory p w.bytes s ∧ a = memValue w p s := by
  by_cases hp : inMemory p w.bytes s
  · rw [memRead_ok w p s hp] at h; exact ⟨hp, (Except.ok.inj h).symm⟩
  · rw [memRead_error w p s hp] at h; exact absurd h (by simp)

theorem memWrite_inv (w : Width) (p : Nat) (v : BitVec w.bits) (s t : State) (h : memWrite w p v s = .ok t) :
    inMemory p w.bytes s ∧ t = memStored w p v s := by
  by_cases hp : inMemory p w.bytes s
  · rw [memWrite_ok w p v s hp] at h; exact ⟨hp, (Except.ok.inj h).symm⟩
  · rw [memWrite_error w p v s hp] at h; exact absurd h (by simp)

/-! ## The stack (47_data_transfer.md R520) -/

theorem pushAddr_one (s : State) : pushAddr s 1 = phys s.sreg.ss (s.sp - 2#16) := rfl

theorem popAddr_zero (s : State) : popAddr s 0 = phys s.sreg.ss s.sp := by simp [popAddr]

theorem push16_ok (v : Word) (s : State) (h : inMemory (pushAddr s 1) 2 s) : push16 v s = .ok (pushed v s) := by
  unfold push16
  rw [← pushAddr_one, memWrite_ok .w16 _ v s h]
  rfl

theorem push16_inv (v : Word) (s t : State) (h : push16 v s = .ok t) : inMemory (pushAddr s 1) 2 s ∧ t = pushed v s := by
  by_cases hp : inMemory (pushAddr s 1) 2 s
  · rw [push16_ok v s hp] at h; exact ⟨hp, (Except.ok.inj h).symm⟩
  · unfold push16 at h
    rw [← pushAddr_one, memWrite_error .w16 _ v s hp] at h; exact absurd h (by simp)

theorem pop16_ok (s : State) (h : inMemory (popAddr s 0) 2 s) :
    pop16 s = .ok (wordAt s (popAddr s 0), writeReg .w16 .sp (s.sp + 2#16) s) := by
  unfold pop16
  rw [← popAddr_zero, memRead_ok .w16 _ s h]
  rfl

theorem pop16_inv (s t : State) (v : Word) (h : pop16 s = .ok (v, t)) :
    inMemory (popAddr s 0) 2 s ∧ v = wordAt s (popAddr s 0) ∧ t = writeReg .w16 .sp (s.sp + 2#16) s := by
  by_cases hp : inMemory (popAddr s 0) 2 s
  · rw [pop16_ok s hp] at h
    have := Except.ok.inj h
    exact ⟨hp, (congrArg Prod.fst this).symm, (congrArg Prod.snd this).symm⟩
  · unfold pop16 at h
    rw [← popAddr_zero, memRead_error .w16 _ s hp] at h; exact absurd h (by simp)

@[simp] theorem sp_writeReg_sp (v : Word) (s : State) : (writeReg .w16 .sp v s).sp = v := GPR.get16_set16 s.gpr .sp v

@[simp] theorem sp_memStored (w : Width) (p : Nat) (v : BitVec w.bits) (s : State) : (memStored w p v s).sp = s.sp := rfl

@[simp] theorem sp_pushed (v : Word) (s : State) : (pushed v s).sp = s.sp - 2#16 := by simp [pushed]

@[simp] theorem pushed_sreg (v : Word) (s : State) : (pushed v s).sreg = s.sreg := by simp [pushed, memStored]

@[simp] theorem pushed_params (v : Word) (s : State) : (pushed v s).params = s.params := by simp [pushed, memStored]

@[simp] theorem pushed_mem (v : Word) (s : State) :
    (pushed v s).mem = Memory.store s.mem (pushAddr s 1) v.toNat 2 := by simp [pushed, memStored]

@[simp] theorem pushed_flags (v : Word) (s : State) : (pushed v s).flags = s.flags := by simp [pushed, memStored]

@[simp] theorem pushed_ip (v : Word) (s : State) : (pushed v s).ip = s.ip := by simp [pushed, memStored]

@[simp] theorem pushed_k (v : Word) (s : State) : (pushed v s).k = s.k := by simp [pushed, memStored]

@[simp] theorem pushed_ipNext (v : Word) (s : State) : (pushed v s).ipNext = s.ipNext := by simp [State.ipNext]

@[simp] theorem inMemory_pushed (v : Word) (s : State) (p n : Nat) : inMemory p n (pushed v s) ↔ inMemory p n s := by
  simp [inMemory]

/-- A further push goes one word below. -/
@[simp] theorem pushAddr_pushed (v : Word) (s : State) (j : Nat) : pushAddr (pushed v s) j = pushAddr s (j + 1) := by
  simp only [pushAddr, pushed_sreg, sp_pushed]
  congr 1
  apply BitVec.eq_of_toNat_eq
  simp only [BitVec.toNat_sub, BitVec.toNat_ofNat]
  omega

/-! ## What stays: the parts of State that no operation but the step's own frame touches -/

/-- Memory in canonical form, below `MEM_SIZE`. -/
structure MemOk (s : State) : Prop where
  wf : Memory.wf s.mem
  below : ∀ c ∈ s.mem, c.1 < s.params.memSize

/-- From `s` to `t` the parameters, the marks and the decoder state stay, and good memory stays good. -/
structure Kept (s t : State) : Prop where
  params : t.params = s.params
  pre : t.pre = s.pre
  k : t.k = s.k
  halted : t.halted = s.halted
  fault : t.fault = s.fault
  mem : MemOk s → MemOk t

theorem Kept.same (s : State) : Kept s s := ⟨rfl, rfl, rfl, rfl, rfl, id⟩

theorem Kept.trans {s t u : State} (h : Kept s t) (g : Kept t u) : Kept s u :=
  ⟨g.params.trans h.params, g.pre.trans h.pre, g.k.trans h.k, g.halted.trans h.halted, g.fault.trans h.fault,
   fun x => g.mem (h.mem x)⟩

theorem kept_of_mem {s t : State} (hm : t.mem = s.mem) (hp : t.params = s.params) (h2 : t.pre = s.pre) (h3 : t.k = s.k)
    (h4 : t.halted = s.halted) (h5 : t.fault = s.fault) : Kept s t :=
  ⟨hp, h2, h3, h4, h5, fun x => ⟨by rw [hm]; exact x.wf, by rw [hm, hp]; exact x.below⟩⟩

theorem kept_writeReg (w : Width) (r : Reg) (v : BitVec w.bits) (s : State) : Kept s (writeReg w r v s) :=
  kept_of_mem (by simp) (by simp) (by simp) (by simp) (by simp) (by simp)

theorem kept_setFlags (f : Flags) (s : State) : Kept s (s.setFlags f) :=
  kept_of_mem rfl rfl rfl rfl rfl rfl

theorem kept_setSreg (r : SReg) (v : Word) (s : State) : Kept s (s.setSreg r v) :=
  kept_of_mem rfl rfl rfl rfl rfl rfl

theorem kept_setIp (v : Word) (s : State) : Kept s (s.setIp v) := kept_of_mem rfl rfl rfl rfl rfl rfl

theorem kept_draw (s : State) : Kept s s.draw := kept_of_mem rfl rfl rfl rfl rfl rfl

theorem kept_memStored (w : Width) (p : Nat) (v : BitVec w.bits) (s : State) (h : inMemory p w.bytes s) :
    Kept s (memStored w p v s) :=
  ⟨rfl, rfl, rfl, rfl, rfl, fun x =>
    ⟨Memory.store_wf _ _ _ _ x.wf, Memory.store_below _ _ _ _ _ h x.below⟩⟩

theorem kept_stored (w : Width) (op : Operand) (v : BitVec w.bits) (s : State) (h : accessible w op s) :
    Kept s (stored w op v s) := by
  cases op with
  | reg r => exact kept_writeReg w r v s
  | mem seg off => exact kept_memStored w _ v s h
  | imm c => exact Kept.same s
  | seg r => exact kept_setSreg r _ s

theorem kept_memWrite {w : Width} {p : Nat} {v : BitVec w.bits} {s t : State} (h : memWrite w p v s = .ok t) :
    Kept s t := by
  obtain ⟨hp, rfl⟩ := memWrite_inv w p v s t h
  exact kept_memStored w p v s hp

theorem kept_writeOp {w : Width} {op : Operand} {v : BitVec w.bits} {s t : State} (h : writeOp w op v s = .ok t) :
    Kept s t := by
  obtain ⟨hp, rfl⟩ := writeOp_inv w op v s t h
  exact kept_stored w op v s hp

theorem kept_push16 {v : Word} {s t : State} (h : push16 v s = .ok t) : Kept s t := by
  obtain ⟨hp, rfl⟩ := push16_inv v s t h
  exact (kept_memStored .w16 _ v s hp).trans (kept_writeReg _ _ _ _)

theorem kept_pop16 {v : Word} {s t : State} (h : pop16 s = .ok (v, t)) : Kept s t := by
  obtain ⟨-, -, rfl⟩ := pop16_inv s t v h
  exact kept_writeReg _ _ _ _

/-! ## Fault entry (60_exceptions.md R602-R604) -/

theorem kept_spoilPlace (s : State) (p : Place) : Kept s (spoilPlace s p) := by
  cases p with
  | reg w r => exact (kept_writeReg w r _ s).trans (kept_draw _)
  | sreg r => exact (kept_setSreg r _ s).trans (kept_draw _)
  | flag n => exact (kept_setFlags _ s).trans (kept_draw _)
  | byte p =>
    simp only [spoilPlace]
    split
    · rename_i hp
      exact ⟨rfl, rfl, rfl, rfl, rfl, fun x =>
        ⟨Memory.write_wf _ _ _ x.wf, Memory.write_below _ _ _ _ hp x.below⟩⟩
    · exact kept_draw s

theorem kept_spoil (ps : List Place) (s : State) : Kept s (spoil s ps) := by
  induction ps generalizing s with
  | nil => exact Kept.same s
  | cons p ps ih => exact (kept_spoilPlace s p).trans (ih _)

@[simp] theorem spoilPlace_ip (s : State) (p : Place) : (spoilPlace s p).ip = s.ip := by
  cases p <;> simp only [spoilPlace] <;> first | split <;> rfl | simp

@[simp] theorem spoil_ip (ps : List Place) (s : State) : (spoil s ps).ip = s.ip := by
  induction ps generalizing s with
  | nil => rfl
  | cons p ps ih => exact (ih _).trans (spoilPlace_ip s p)

@[simp] theorem spoil_nil (s : State) : spoil s [] = s := rfl

/-- `t` is `s` after a fault of the instruction that started in `s`: the record, IP and the decoder state are as R602 and
R604 say, memory is still good. -/
structure Faulted (s t : State) : Prop where
  record : ∃ info, t.fault = some ⟨info, s.sreg.cs, s.ip⟩
  ip : t.ip = s.ip
  pre : t.pre = {}
  k : t.k = 0
  halted : t.halted = s.halted
  params : t.params = s.params
  mem : MemOk s → MemOk t

/-- How a meaning that starts in `s` may end: completed with the frame parts kept, or faulted; or a host service blocks.
It is never refused. -/
def Good (s : State) (r : Result) : Prop :=
  match r with
  | .next t => Kept s t ∨ Faulted s t
  | .fault f => ∃ v, f = .serviceBlocked v
  | .refused _ => False

theorem good_raise (info : FaultInfo) (ps : List Place) (s : State) : Good s (raise info ps s) := by
  refine .inr ⟨⟨info, rfl⟩, ?_, rfl, rfl, ?_, ?_, ?_⟩
  · simp
  · exact (kept_spoil _ s).halted
  · exact (kept_spoil _ s).params
  · intro h
    have := (kept_spoil (ps ++ info.partBytes s.params.memSize) s).mem h
    exact ⟨this.wf, this.below⟩

/-- A fault on nothing written leaves everything but the mark as it was (60_exceptions.md R603). -/
theorem raise_nothing (info : FaultInfo) (s : State) (h : info.partBytes s.params.memSize = []) :
    raise info [] s = .next { s.endInstr with fault := some ⟨info, s.sreg.cs, s.ip⟩ } := by
  simp only [raise, h, List.append_nil, spoil_nil]

theorem good_next {s t : State} (h : Kept s t) : Good s (.next t) := .inl h

theorem good_done {s t : State} (h : Kept s t) : Good s (done t) := .inl (h.trans (kept_setIp _ _))

theorem good_orRaise {α : Type} {s : State} {ps : List Place} {x : Except FaultInfo α} {k : α → Result}
    (h : ∀ a, x = .ok a → Good s (k a)) : Good s (orRaise s ps x k) := by
  cases x with
  | ok a => exact h a rfl
  | error c => exact good_raise c ps s

/-! ## Software interrupts (60_exceptions.md R610-R612) -/

theorem memoryOfCells_ok (N : Nat) (cells : List Host.Cell) :
    Memory.wf (memoryOfCells N cells) ∧ ∀ c ∈ memoryOfCells N cells, c.1 < N := by
  have key : ∀ (cells : List Host.Cell) (m : Memory), (Memory.wf m ∧ ∀ c ∈ m, c.1 < N) →
      Memory.wf (cells.foldl (fun m c => if c.1 < N then Memory.write m c.1 c.2 else m) m) ∧
        ∀ c ∈ cells.foldl (fun m c => if c.1 < N then Memory.write m c.1 c.2 else m) m, c.1 < N := by
    intro cells
    induction cells with
    | nil => intro m h; exact h
    | cons c cells ih =>
      intro m h
      apply ih
      dsimp only
      split
      · rename_i hc
        exact ⟨Memory.write_wf _ _ _ h.1, Memory.write_below _ _ _ _ hc h.2⟩
      · exact h
  exact key cells [] ⟨⟨List.Pairwise.nil, by simp⟩, by simp⟩

theorem kept_ofService (s : State) (t : ServiceState) : Kept s (s.ofService t) :=
  ⟨rfl, rfl, rfl, rfl, rfl, fun _ => ⟨(memoryOfCells_ok _ _).1, (memoryOfCells_ok _ _).2⟩⟩

theorem good_hostService (n : Byte) (s : State) : Good s (hostService n s) := by
  unfold hostService
  split
  · exact good_next ((kept_ofService s _).trans (kept_draw _))
  · rename_i record _
    have h := good_raise (.hostFault n record) [] s.draw
    obtain ⟨t, ht⟩ : ∃ t, raise (.hostFault n record) [] s.draw = .next t := ⟨_, rfl⟩
    rw [ht] at h ⊢
    rcases h with h | h
    · exact .inl ((kept_draw s).trans h)
    · exact .inr ⟨h.record, h.ip, h.pre, h.k, h.halted, h.params, fun x => h.mem ⟨x.wf, x.below⟩⟩
  · exact ⟨n, rfl⟩

theorem good_enterVector (n : Byte) (s : State) : Good s (enterVector n s) :=
  good_orRaise fun _ h1 => good_orRaise fun _ h2 => good_orRaise fun _ h3 => good_orRaise fun _ _ =>
    good_orRaise fun _ _ =>
      good_next ((((((kept_push16 h1).trans (kept_setFlags _ _)).trans (kept_push16 h2)).trans (kept_push16 h3)).trans
        (kept_setIp _ _)).trans (kept_setSreg _ _ _))

theorem good_interrupt (n : Byte) (s : State) : Good s (interrupt n s) := by
  unfold interrupt
  split
  · exact good_hostService n s
  · exact good_enterVector n s

theorem good_interruptReturn (s : State) : Good s (interruptReturn s) :=
  good_orRaise fun _ h1 => good_orRaise fun _ h2 => good_orRaise fun _ h3 =>
    good_next ((((((kept_pop16 h1).trans (kept_pop16 h2)).trans (kept_pop16 h3)).trans (kept_setIp _ _)).trans
      (kept_setSreg _ _ _)).trans (kept_setFlags _ _))

end Sys2Proof.Machine
end

