-- ==== Sys2Proof/Laws/Frame.lean ====
section
/-! SUPPORT. The frame, `Unchanged`, of each shared operation, and how frames compose. -/

namespace Sys2Proof.Machine

/-- The places of two writes, one after the other. -/
def Writes.union (x y : Writes) : Writes where
  regs := x.regs ++ y.regs
  sregs := x.sregs ++ y.sregs
  flags := x.flags ++ y.flags
  bytes := x.bytes ++ y.bytes

theorem Unchanged.same (x : Writes) (s : State) : Unchanged x s s :=
  ⟨fun _ _ _ => rfl, fun _ _ => rfl, fun _ _ => rfl, fun _ _ => rfl, rfl, rfl, rfl, rfl, rfl⟩

/-- More places, a weaker frame. -/
theorem Unchanged.mono {x y : Writes} {s t : State} (h : Unchanged x s t) (h1 : ∀ v ∈ x.regs, v ∈ y.regs)
    (h2 : ∀ v ∈ x.sregs, v ∈ y.sregs) (h3 : ∀ v ∈ x.flags, v ∈ y.flags) (h4 : ∀ v ∈ x.bytes, v ∈ y.bytes) :
    Unchanged y s t :=
  ⟨fun q b hv => h.regs q b fun v hm => hv v (h1 v hm), fun q hq => h.sregs q fun hm => hq (h2 q hm),
   fun f hf => h.flags f fun hm => hf (h3 f hm), fun p hp => h.bytes p fun hm => hp (h4 p hm),
   h.fault, h.pre, h.k, h.halted, h.params⟩

theorem Unchanged.trans {x y : Writes} {s t u : State} (h : Unchanged x s t) (g : Unchanged y t u) :
    Unchanged (x.union y) s u := by
  refine ⟨fun q b hv => ?_, fun q hq => ?_, fun f hf => ?_, fun p hp => ?_, g.fault.trans h.fault, g.pre.trans h.pre,
    g.k.trans h.k, g.halted.trans h.halted, g.params.trans h.params⟩
  · exact (g.regs q b fun v hm => hv v (List.mem_append_right _ hm)).trans
      (h.regs q b fun v hm => hv v (List.mem_append_left _ hm))
  · exact (g.sregs q fun hm => hq (List.mem_append_right _ hm)).trans
      (h.sregs q fun hm => hq (List.mem_append_left _ hm))
  · exact (g.flags f fun hm => hf (List.mem_append_right _ hm)).trans
      (h.flags f fun hm => hf (List.mem_append_left _ hm))
  · exact (g.bytes p fun hm => hp (List.mem_append_right _ hm)).trans
      (h.bytes p fun hm => hp (List.mem_append_left _ hm))

/-- Frames over one list of places compose. -/
theorem Unchanged.both {x : Writes} {s t u : State} (h : Unchanged x s t) (g : Unchanged x t u) : Unchanged x s u :=
  (h.trans g).mono (fun _ hm => (List.mem_append.mp hm).elim id id) (fun _ hm => (List.mem_append.mp hm).elim id id)
    (fun _ hm => (List.mem_append.mp hm).elim id id) (fun _ hm => (List.mem_append.mp hm).elim id id)

/-! ## One operation -/

theorem unchanged_writeReg (x : Writes) (w : Width) (r : Reg) (v : BitVec w.bits) (s : State) (h : (w, r) ∈ x.regs) :
    Unchanged x s (writeReg w r v s) := by
  refine ⟨fun q b hv => ?_, by simp, by simp, by simp, by simp, by simp, by simp, by simp, by simp⟩
  have := hv (w, r) h
  apply writeReg_outside
  cases w with
  | w8 => exact fun hq hb => this ⟨hq, hb⟩
  | w16 => exact fun hq hb => this ⟨hq, hb⟩
  | w32 => exact fun hq => this hq

theorem unchanged_setFlags (x : Writes) (f : Flags) (s : State) (h : ∀ n, n ∉ x.flags → f.get n = s.flags.get n) :
    Unchanged x s (s.setFlags f) :=
  ⟨fun _ _ _ => rfl, fun _ _ => rfl, h, fun _ _ => rfl, rfl, rfl, rfl, rfl, rfl⟩

theorem unchanged_setSreg (x : Writes) (r : SReg) (v : Word) (s : State) (h : r ∈ x.sregs) :
    Unchanged x s (s.setSreg r v) :=
  ⟨fun _ _ _ => rfl, fun _ hq => SegRegs.get_set_ne _ _ _ _ fun he => hq (he ▸ h), fun _ _ => rfl, fun _ _ => rfl, rfl,
   rfl, rfl, rfl, rfl⟩

theorem unchanged_setIp (x : Writes) (v : Word) (s : State) : Unchanged x s (s.setIp v) :=
  ⟨fun _ _ _ => rfl, fun _ _ => rfl, fun _ _ => rfl, fun _ _ => rfl, rfl, rfl, rfl, rfl, rfl⟩

theorem unchanged_draw (x : Writes) (s : State) : Unchanged x s s.draw :=
  ⟨fun _ _ _ => rfl, fun _ _ => rfl, fun _ _ => rfl, fun _ _ => rfl, rfl, rfl, rfl, rfl, rfl⟩

theorem unchanged_memStored (x : Writes) (w : Width) (p : Nat) (v : BitVec w.bits) (s : State)
    (h : ∀ a ∈ byteRange p w.bytes, a ∈ x.bytes) : Unchanged x s (memStored w p v s) := by
  refine ⟨fun _ _ _ => rfl, fun _ _ => rfl, fun _ _ => rfl, fun a ha => ?_, rfl, rfl, rfl, rfl, rfl⟩
  refine Memory.read_store_outside _ _ _ _ _ ?_
  have : ¬ (p ≤ a ∧ a < p + w.bytes) := fun hr => ha (h a ((mem_byteRange _ _ _).mpr hr))
  omega

/-- A write of an operand changes its places alone. -/
theorem unchanged_stored (w : Width) (op : Operand) (v : BitVec w.bits) (s : State) :
    Unchanged (operandWrites w op s) s (stored w op v s) := by
  cases op with
  | reg r => exact unchanged_writeReg _ w r v s (List.mem_singleton.mpr rfl)
  | mem seg off => exact unchanged_memStored _ w _ v s fun _ h => h
  | imm c => exact Unchanged.same _ s
  | seg r => exact unchanged_setSreg _ r _ s (List.mem_singleton.mpr rfl)

theorem unchanged_pushed (x : Writes) (v : Word) (s : State) (hr : (Width.w16, Reg.sp) ∈ x.regs)
    (hb : ∀ a ∈ byteRange (pushAddr s 1) 2, a ∈ x.bytes) : Unchanged x s (pushed v s) :=
  (unchanged_memStored x .w16 _ v s hb).both (unchanged_writeReg x _ _ _ _ hr)

/-- An instruction that completes keeps its frame: IP is none of its places. -/
theorem unchanged_done {x : Writes} {s t u : State} (h : Unchanged x s t) (hd : done t = .next u) : Unchanged x s u := by
  cases hd
  exact h.both (unchanged_setIp x _ t)

/-- A fault sets the mark, so a next state without it comes from no fault. -/
theorem raise_marks {info : FaultInfo} {ps : List Place} {s t : State} (h : raise info ps s = .next t) : t.fault ≠ none := by
  cases h
  simp

/-- Going on after a step that may raise: without a mark at the end, it answered a value. -/
theorem orRaise_unmarked {α : Type} {s t : State} {ps : List Place} {x : Except FaultInfo α} {k : α → Result}
    (h : orRaise s ps x k = .next t) (hf : t.fault = none) : ∃ a, x = .ok a ∧ k a = .next t := by
  cases x with
  | ok a => exact ⟨a, rfl, h⟩
  | error c => exact absurd hf (raise_marks h)

/-! ## The flags each helper writes (40_alu_binary.md R202-R209, 41_alu_unary.md, 43_shift_rotate.md R330) -/

theorem szp_frame {n : Nat} (f : Flags) (r : BitVec n) (x : FlagName) (h : x ∉ [FlagName.SF, .ZF, .PF]) :
    (f.szp r).get x = f.get x := by
  cases x <;> first | rfl | exact absurd (by decide) h

theorem binOp_frame {n : Nat} (op : BinOp) (p : Params) (a b : BitVec n) (f : Flags) (x : FlagName) (h : x ∉ arithFlags) :
    (op.apply p a b f).2.get x = f.get x := by
  cases x <;>
    first
    | exact absurd (by decide) h
    | (cases op <;>
        first
        | rfl
        | (simp only [BinOp.apply, updateAND]; cases p.andFlagPolicy <;> rfl))

theorem updateAND_frame {n : Nat} (p : AndFlagPolicy) (a b : BitVec n) (f : Flags) (x : FlagName) (h : x ∉ arithFlags) :
    (updateAND p a b f).2.get x = f.get x := by
  cases x <;> first | exact absurd (by decide) h | (cases p <;> rfl)

theorem unOp_frame {n : Nat} (op : UnOp) (p : Params) (a : BitVec n) (f : Flags) (x : FlagName) (h : x ∉ arithFlags) :
    (op.apply p a f).2.get x = f.get x := by
  cases x <;>
    first
    | exact absurd (by decide) h
    | (cases op <;>
        first
        | rfl
        | (simp only [UnOp.apply, updateINC, updateDEC]; cases p.incDecCf <;> rfl))

end Sys2Proof.Machine
end

