-- ==== Sys2Proof/Laws/Meanings.lean ====
section
/-! SUPPORT. What each shared meaning can do, said once: that it ends well (`Good`), and its next state where its operands
lie in memory. Last, that every instruction ends well. -/

namespace Sys2Proof.Machine

/-! ## Binary and unary ALU, TEST -/

theorem binaryAlu_good (op : BinOp) (w : Width) (dst src : Operand) (s : State) : Good s (binaryAlu op w dst src s) := by
  refine good_orRaise fun a _ => good_orRaise fun b _ => ?_
  cases op with
  | cmp => exact good_done (kept_setFlags _ s)
  | _ => exact good_orRaise fun _ h => good_done ((kept_setFlags _ s).trans (kept_writeOp h))

theorem testAlu_good (w : Width) (dst src : Operand) (s : State) : Good s (testAlu w dst src s) :=
  good_orRaise fun _ _ => good_orRaise fun _ _ => good_done (kept_setFlags _ s)

theorem unaryAlu_good (op : UnOp) (w : Width) (dst : Operand) (s : State) : Good s (unaryAlu op w dst s) :=
  good_orRaise fun _ _ => good_orRaise fun _ h => good_done ((kept_setFlags _ s).trans (kept_writeOp h))

theorem accessible_setFlags (w : Width) (op : Operand) (f : Flags) (s : State) :
    accessible w op (s.setFlags f) ↔ accessible w op s := by cases op <;> exact Iff.rfl

theorem binaryAlu_ok (op : BinOp) (w : Width) (dst src : Operand) (s : State) (hd : accessible w dst s)
    (hs : accessible w src s) :
    binaryAlu op w dst src s =
      done (if op = .cmp then s.setFlags (op.apply s.params (valueOf w dst s) (valueOf w src s) s.flags).2
        else stored w dst (op.apply s.params (valueOf w dst s) (valueOf w src s) s.flags).1
          (s.setFlags (op.apply s.params (valueOf w dst s) (valueOf w src s) s.flags).2)) := by
  unfold binaryAlu
  rw [readOp_ok w dst s hd, orRaise_ok, readOp_ok w src s hs, orRaise_ok]
  cases op <;>
    first
    | rfl
    | (dsimp only
       rw [writeOp_ok w dst _ _ ((accessible_setFlags w dst _ s).mpr hd), orRaise_ok, if_neg (by decide)])

theorem testAlu_ok (w : Width) (dst src : Operand) (s : State) (hd : accessible w dst s) (hs : accessible w src s) :
    testAlu w dst src s =
      done (s.setFlags (updateAND s.params.andFlagPolicy (valueOf w dst s) (valueOf w src s) s.flags).2) := by
  unfold testAlu
  rw [readOp_ok w dst s hd, orRaise_ok, readOp_ok w src s hs, orRaise_ok]

theorem unaryAlu_ok (op : UnOp) (w : Width) (dst : Operand) (s : State) (hd : accessible w dst s) :
    unaryAlu op w dst s =
      done (stored w dst (op.apply s.params (valueOf w dst s) s.flags).1
        (s.setFlags (op.apply s.params (valueOf w dst s) s.flags).2)) := by
  unfold unaryAlu
  rw [readOp_ok w dst s hd, orRaise_ok]
  dsimp only
  rw [writeOp_ok w dst _ _ ((accessible_setFlags w dst _ s).mpr hd), orRaise_ok]

/-! ## Multiply, divide, sign extension -/

theorem kept_writeAcc (w : Width) (hi lo : BitVec w.bits) (s : State) : Kept s (writeAcc w hi lo s) :=
  (kept_writeReg _ _ _ _).trans (kept_writeReg _ _ _ _)

theorem mulOp_good (w : Width) (src : Operand) (s : State) : Good s (mulOp w src s) :=
  good_orRaise fun _ _ => good_done ((kept_writeAcc _ _ _ s).trans (kept_setFlags _ _))

theorem imulOp_good (w : Width) (src : Operand) (s : State) : Good s (imulOp w src s) :=
  good_orRaise fun _ _ => good_done ((kept_writeAcc _ _ _ s).trans (kept_setFlags _ _))

theorem divOp_good (w : Width) (src : Operand) (s : State) : Good s (divOp w src s) := by
  refine good_orRaise fun d _ => ?_
  dsimp only
  split
  · exact good_raise _ _ s
  · split
    · exact good_raise _ _ s
    · exact good_done (kept_writeAcc _ _ _ s)

theorem idivOp_good (w : Width) (src : Operand) (s : State) : Good s (idivOp w src s) := by
  refine good_orRaise fun d _ => ?_
  dsimp only
  split
  · exact good_raise _ _ s
  · split
    · exact good_raise _ _ s
    · exact good_done (kept_writeAcc _ _ _ s)

theorem signExtendAcc_good (o : OSize) (s : State) : Good s (signExtendAcc o s) := by
  cases o <;> exact good_done (kept_writeReg _ _ _ s)

theorem signFillHigh_good (o : OSize) (s : State) : Good s (signFillHigh o s) := by
  cases o <;> exact good_done (kept_writeReg _ _ _ s)

/-! ## Shifts and rotates -/

theorem shiftWrite_good (op : ShiftOp) (w : Width) (dst : Operand) (c : Nat) (r : BitVec w.bits) (cf of : Bool)
    (s u : State) (h : Kept u s) (hi : u.sreg.cs = s.sreg.cs ∧ u.ip = s.ip) :
    Good u (shiftWrite op w dst c r cf of s) := by
  unfold shiftWrite
  have key : ∀ s', Kept u s' → u.sreg.cs = s'.sreg.cs ∧ u.ip = s'.ip → ∀ g : Flags,
      Good u (orRaise s' [] (writeOp w dst r s') fun t => done (t.setFlags g)) := by
    intro s' hk hi g
    cases hw : writeOp w dst r s' with
    | ok t => exact good_done ((hk.trans (kept_writeOp hw)).trans (kept_setFlags _ _))
    | error c =>
      rw [orRaise_error]
      have hr := good_raise c [] s'
      obtain ⟨t, ht⟩ : ∃ t, raise c [] s' = .next t := ⟨_, rfl⟩
      rw [ht] at hr ⊢
      rcases hr with hr | hr
      · exact .inl (hk.trans hr)
      · refine .inr ⟨?_, hr.ip.trans hi.2.symm, hr.pre, hr.k, hr.halted.trans hk.halted, hr.params.trans hk.params,
          fun x => hr.mem (hk.mem x)⟩
        rw [hi.1, hi.2]; exact hr.record
  by_cases hc : c = 1
  · simp only [hc, if_true]; exact key s h hi _
  · simp only [hc, if_false]; exact key s.draw (h.trans (kept_draw s)) hi _

theorem shiftOp_good (op : ShiftOp) (w : Width) (dst : Operand) (src : Byte) (s : State) :
    Good s (shiftOp op w dst src s) := by
  refine good_orRaise fun a _ => ?_
  dsimp only
  split
  · exact good_done (Kept.same s)
  · split
    · exact good_done (Kept.same s)
    · exact shiftWrite_good _ _ _ _ _ _ _ s s (Kept.same s) ⟨rfl, rfl⟩
    · exact shiftWrite_good _ _ _ _ _ _ _ s.draw s (kept_draw s) ⟨rfl, rfl⟩

/-! ## Flag instructions -/

theorem pushValue_good (v : Word) (s : State) : Good s (pushValue v s) :=
  good_orRaise fun _ h => good_done (kept_push16 h)

theorem popFlags_good (s : State) : Good s (popFlags s) :=
  good_orRaise fun _ h => good_done ((kept_pop16 h).trans (kept_setFlags _ _))

theorem pushValue_ok (v : Word) (s : State) (h : inMemory (pushAddr s 1) 2 s) : pushValue v s = done (pushed v s) := by
  unfold pushValue
  rw [push16_ok v s h, orRaise_ok]

/-! ## Control transfer -/

theorem jumpTo_good {s t : State} (v : Word) (h : Kept s t) : Good s (jumpTo v t) := good_next (h.trans (kept_setIp _ _))

theorem jumpIf_good {s t : State} (c : Bool) (d : Byte) (h : Kept s t) : Good s (jumpIf c d t) := by
  unfold jumpIf
  split
  · exact jumpTo_good _ h
  · exact good_done h

theorem loopIf_good (c : Bool) (d : Byte) (s : State) : Good s (loopIf c d s) := jumpIf_good _ _ (kept_writeReg _ _ _ s)

theorem jumpIndirect_good (op : Operand) (s : State) : Good s (jumpIndirect op s) :=
  good_orRaise fun _ _ => jumpTo_good _ (Kept.same s)

theorem jumpFar_good {s t : State} (sel off : Word) (h : Kept s t) : Good s (jumpFar sel off t) :=
  good_next ((h.trans (kept_setIp _ _)).trans (kept_setSreg _ _ _))

theorem jumpFarIndirect_good (m : MemRef) (s : State) : Good s (jumpFarIndirect m s) :=
  good_orRaise fun _ _ => jumpFar_good _ _ (Kept.same s)

theorem callNear_good (v : Word) (s : State) : Good s (callNear v s) :=
  good_orRaise fun _ h => jumpTo_good _ (kept_push16 h)

theorem callIndirect_good (op : Operand) (s : State) : Good s (callIndirect op s) :=
  good_orRaise fun _ _ => callNear_good _ s

theorem callFarTo_good (sel off : Word) (s : State) : Good s (callFarTo sel off s) :=
  good_orRaise fun _ h1 => good_orRaise fun _ h2 => jumpFar_good _ _ ((kept_push16 h1).trans (kept_push16 h2))

theorem callFarIndirect_good (m : MemRef) (s : State) : Good s (callFarIndirect m s) :=
  good_orRaise fun _ _ => callFarTo_good _ _ s

theorem returnNear_good (n : Word) (s : State) : Good s (returnNear n s) :=
  good_orRaise fun _ h => jumpTo_good _ ((kept_pop16 h).trans (kept_writeReg _ _ _ _))

theorem returnFar_good (n : Word) (s : State) : Good s (returnFar n s) :=
  good_orRaise fun _ h1 => good_orRaise fun _ h2 =>
    jumpFar_good _ _ (((kept_pop16 h1).trans (kept_pop16 h2)).trans (kept_writeReg _ _ _ _))

theorem interruptOnOverflow_good (s : State) : Good s (interruptOnOverflow s) := by
  unfold interruptOnOverflow
  split
  · exact good_interrupt _ s
  · exact good_done (Kept.same s)

/-! ## Strings -/

theorem kept_advance (w : Width) (r : Reg) (s : State) : Kept s (advance w r s) := kept_writeReg _ _ _ _

theorem kept_stringIteration {op : StrOp} {w : Width} {ovr : Option SReg} {s t : State}
    (h : stringIteration op w ovr s = .ok t) : Kept s t := by
  cases op <;> simp only [stringIteration] at h
  · split at h
    · exact absurd h (by simp)
    · split at h
      · exact absurd h (by simp)
      · rename_i hw; cases h
        exact ((kept_memWrite hw).trans (kept_advance _ _ _)).trans (kept_advance _ _ _)
  · split at h
    · exact absurd h (by simp)
    · split at h
      · exact absurd h (by simp)
      · cases h
        exact ((kept_setFlags _ s).trans (kept_advance _ _ _)).trans (kept_advance _ _ _)
  · split at h
    · exact absurd h (by simp)
    · rename_i hw; cases h
      exact (kept_memWrite hw).trans (kept_advance _ _ _)
  · split at h
    · exact absurd h (by simp)
    · cases h
      exact (kept_writeReg _ _ _ s).trans (kept_advance _ _ _)
  · split at h
    · exact absurd h (by simp)
    · cases h
      exact (kept_setFlags _ s).trans (kept_advance _ _ _)

theorem kept_repeatLoop {op : StrOp} {w : Width} {ovr : Option SReg} {kind : Repeat} (n : Nat) {s t : State}
    (h : repeatLoop op w ovr kind n s = .ok t) : Kept s t := by
  induction n generalizing s with
  | zero => cases h; exact Kept.same _
  | succ n ih =>
    simp only [repeatLoop] at h
    split at h
    · exact absurd h (by simp)
    · rename_i hit
      split at h
      · cases h
        exact (kept_stringIteration hit).trans (kept_writeReg _ _ _ _)
      · exact ((kept_stringIteration hit).trans (kept_writeReg _ _ _ _)).trans (ih h)

theorem stringOnce_good (op : StrOp) (w : Width) (ovr : Option SReg) (s : State) : Good s (stringOnce op w ovr s) :=
  good_orRaise fun _ h => good_done (kept_stringIteration h)

theorem stringRepeat_good (op : StrOp) (w : Width) (ovr : Option SReg) (kind : Repeat) (s : State) :
    Good s (stringRepeat op w ovr kind s) := by
  unfold stringRepeat
  split
  · rename_i h; exact good_done (kept_repeatLoop _ h)
  · exact good_raise _ _ s

/-! ## Data transfer -/

theorem moveOp_good (w : Width) (dst src : Operand) (s : State) : Good s (moveOp w dst src s) :=
  good_orRaise fun _ _ => good_orRaise fun _ h => good_done (kept_writeOp h)

theorem moveOp_ok (w : Width) (dst src : Operand) (s : State) (hd : accessible w dst s) (hs : accessible w src s) :
    moveOp w dst src s = done (stored w dst (valueOf w src s) s) := by
  unfold moveOp
  rw [readOp_ok w src s hs, orRaise_ok, writeOp_ok w dst _ s hd, orRaise_ok]

theorem exchangeOp_reg_good (w : Width) (op1 : Operand) (r : Reg) (s : State) :
    Good s (exchangeOp w op1 (.reg r) s) :=
  good_orRaise fun _ _ => good_orRaise fun _ _ => good_orRaise fun _ h1 =>
    good_done ((kept_writeOp h1).trans (kept_writeReg _ _ _ _))

theorem loadEffectiveAddress_good (o : OSize) (g : Reg) (m : MemRef) (s : State) :
    Good s (loadEffectiveAddress o g m s) := good_done (kept_writeReg _ _ _ s)

theorem loadFarPointer_good (x : SReg) (o : OSize) (g : Reg) (m : MemRef) (s : State) :
    Good s (loadFarPointer x o g m s) :=
  good_orRaise fun _ _ => good_done ((kept_writeReg _ _ _ s).trans (kept_setSreg _ _ _))

theorem translateByte_good (ovr : Option SReg) (s : State) : Good s (translateByte ovr s) :=
  good_orRaise fun _ _ => good_done (kept_writeReg _ _ _ s)

theorem pushOperand_good (op : Operand) (s : State) : Good s (pushOperand op s) :=
  good_orRaise fun _ _ => pushValue_good _ s

theorem popOperand_good (op : Operand) (s : State) : Good s (popOperand op s) :=
  good_orRaise fun _ h1 => good_orRaise fun _ h2 => good_done ((kept_pop16 h1).trans (kept_writeOp h2))

/-! ## Every instruction -/

/-- Every instruction but HLT and the prefix units ends well: it completes with the frame parts kept, or faults with a
record of its start, or is a host service that blocks. -/
theorem exec_good (i : Instr) (s : State) (hp : i.asPrefix = none) (hh : i ≠ .hlt) : Good s (exec i s) := by
  cases i <;> simp only [exec]
  case addEbGb | addEvGv | addGbEb | addGvEv | addAlIb | addEaxIv | orEbGb | orEvGv | orGbEb | orGvEv | orAlIb |
    orEaxIv | adcEbGb | adcEvGv | adcGbEb | adcGvEv | adcAlIb | adcEaxIv | sbbEbGb | sbbEvGv | sbbGbEb | sbbGvEv |
    sbbAlIb | sbbEaxIv | andEbGb | andEvGv | andGbEb | andGvEv | andAlIb | andEaxIv | subEbGb | subEvGv | subGbEb |
    subGvEv | subAlIb | subEaxIv | xorEbGb | xorEvGv | xorGbEb | xorGvEv | xorAlIb | xorEaxIv | cmpEbGb | cmpEvGv |
    cmpGbEb | cmpGvEv | cmpAlIb | cmpEaxIv | addEbIb | addEvIv | addEvSIb | orEbIb | orEvIv | orEvSIb | adcEbIb |
    adcEvIv | adcEvSIb | sbbEbIb | sbbEvIv | sbbEvSIb | andEbIb | andEvIv | andEvSIb | subEbIb | subEvIv | subEvSIb |
    xorEbIb | xorEvIv | xorEvSIb | cmpEbIb | cmpEvIv | cmpEvSIb => exact binaryAlu_good _ _ _ _ s
  case testEbGb | testEvGv | testAlIb | testEaxIv | testEbIb | testEvIv => exact testAlu_good _ _ _ s
  case incReg | incEb | incEv | decReg | decEb | decEv | notEb | notEv | negEb | negEv => exact unaryAlu_good _ _ _ s
  case mulEb | mulEv => exact mulOp_good _ _ s
  case imulEb | imulEv => exact imulOp_good _ _ s
  case divEb | divEv => exact divOp_good _ _ s
  case idivEb | idivEv => exact idivOp_good _ _ s
  case cbw | cwde => exact signExtendAcc_good _ s
  case cwd | cdq => exact signFillHigh_good _ s
  case rolEbIb | rolEvIb | rolEb1 | rolEv1 | rolEbCl | rolEvCl | rorEbIb | rorEvIb | rorEb1 | rorEv1 | rorEbCl |
    rorEvCl | rclEbIb | rclEvIb | rclEb1 | rclEv1 | rclEbCl | rclEvCl | rcrEbIb | rcrEvIb | rcrEb1 | rcrEv1 |
    rcrEbCl | rcrEvCl | shlEbIb | shlEvIb | shlEb1 | shlEv1 | shlEbCl | shlEvCl | shrEbIb | shrEvIb | shrEb1 |
    shrEv1 | shrEbCl | shrEvCl | sarEbIb | sarEvIb | sarEb1 | sarEv1 | sarEbCl | sarEvCl =>
    exact shiftOp_good _ _ _ _ s
  case clc | stc | cmc | cld | std | cli | sti | sahf => exact good_done (kept_setFlags _ s)
  case lahf => exact good_done (kept_writeReg _ _ _ s)
  case pushf | pushReg | pushEs | pushCs | pushSs | pushDs => exact pushValue_good _ s
  case popf => exact popFlags_good s
  case jo | jno | jc | jnc | jz | jnz | jbe | ja | js | jns | jpe | jpo | jl | jge | jle | jg | jcxz =>
    exact jumpIf_good _ _ (Kept.same s)
  case loopne | loope | loop => exact loopIf_good _ _ s
  case jmpRel16 | jmpRel8 => exact jumpTo_good _ (Kept.same s)
  case jmpEv => exact jumpIndirect_good _ s
  case jmpFar => exact jumpFar_good _ _ (Kept.same s)
  case jmpMp => exact jumpFarIndirect_good _ s
  case callRel16 => exact callNear_good _ s
  case callEv => exact callIndirect_good _ s
  case callFar => exact callFarTo_good _ _ s
  case callMp => exact callFarIndirect_good _ s
  case ret | retIw => exact returnNear_good _ s
  case retf | retfIw => exact returnFar_good _ s
  case intIb | int3 => exact good_interrupt _ s
  case into => exact interruptOnOverflow_good s
  case iret => exact good_interruptReturn s
  case hlt => exact absurd rfl hh
  case movsb | movsw | movsd | cmpsb | cmpsw | cmpsd | stosb | stosw | stosd | lodsb | lodsw | lodsd | scasb |
    scasw | scasd => exact stringOnce_good _ _ _ s
  case repMovsb | repMovsw | repMovsd | repeCmpsb | repneCmpsb | repeCmpsw | repneCmpsw | repeCmpsd | repneCmpsd |
    repStosb | repStosw | repStosd | repLodsb | repLodsw | repLodsd | repeScasb | repneScasb | repeScasw |
    repneScasw | repeScasd | repneScasd => exact stringRepeat_good _ _ _ _ s
  case movEbGb | movEvGv | movGbEb | movGvEv | movRegIb | movRegIv | movEbIb | movEvIv | movAlMoffs | movEaxMoffs |
    movMoffsAl | movMoffsEax | movEwSw | movSwEw => exact moveOp_good _ _ _ s
  case xchgEbGb | xchgEvGv | xchgEaxCx | xchgEaxDx | xchgEaxBx | xchgEaxSp | xchgEaxBp | xchgEaxSi | xchgEaxDi =>
    exact exchangeOp_reg_good _ _ _ s
  case nop => exact good_done (Kept.same s)
  case leaGvM => exact loadEffectiveAddress_good _ _ _ s
  case lesGvMp | ldsGvMp | lssGvMp | lfsGvMp | lgsGvMp => exact loadFarPointer_good _ _ _ _ s
  case xlat => exact translateByte_good _ s
  case pushEv => exact pushOperand_good _ s
  case popReg | popEs | popSs | popDs | popEv => exact popOperand_good _ s
  case segEs | segCs | segSs | segDs | segFs | segGs | opSize | repE | repNe =>
    exact absurd hp (by simp [Instr.asPrefix])

end Sys2Proof.Machine
end

