-- ==== Sys2Proof/Laws/PerInstr.lean ====
section
/-! SUPPORT. Decoding gives back what the encoder wrote, one lemma per constructor of `Instr`. -/

namespace Sys2Proof.Laws.EncodeDecode

open Sys2Proof

/-- Under the instruction's own prefixes, its encoded unit decodes to it, whatever follows, and all its bytes are read. -/
def Statement (i : Instr) : Prop :=
  i.wf = true → ∀ rest : List Byte,
    decodeUnit i.prefixes (encodeUnit i ++ rest) = .ok i (encodeUnit i).length

/-- Reading stops at the number of bytes there are. -/
theorem ok_length {d : Decoded} {i : Instr} {n m : Nat} (h : d = .ok i n) (hn : n = m) : d = .ok i m := hn ▸ h

theorem wf_left {a b : Bool} (h : (a && b) = true) : a = true := (Bool.and_eq_true_iff.mp h).1

theorem wf_right {a b : Bool} (h : (a && b) = true) : b = true := (Bool.and_eq_true_iff.mp h).2

/-- A unit of an opcode and two fields. -/
theorem assoc {p : Prefixes} {b : Byte} {x y rest : List Byte} {d : Decoded}
    (h : decodeUnit p (b :: (x ++ (y ++ rest))) = d) : decodeUnit p ((b :: (x ++ y)) ++ rest) = d := by
  rw [← h, List.cons_append, List.append_assoc]

/-! Lengths of units. -/

theorem lenE (b : Byte) (reg : BitVec 3) (e : RM) : 1 + 1 + e.disp.length = (b :: eBytes reg e).length := by
  rw [List.length_cons, eBytes_length]; omega

theorem lenEI (b : Byte) (reg : BitVec 3) (e : RM) (imm : Byte) :
    1 + 1 + e.disp.length + 1 = (b :: (eBytes reg e ++ [imm])).length := by
  rw [List.length_cons, List.length_append, eBytes_length, List.length_singleton]; omega

theorem lenEV (b : Byte) (reg : BitVec 3) (e : RM) (o : OSize) (imm : Dword) :
    1 + 1 + e.disp.length + o.width.bytes = (b :: (eBytes reg e ++ ivBytes o imm)).length := by
  rw [List.length_cons, List.length_append, eBytes_length, ivBytes_length]; omega

theorem lenV (b : Byte) (o : OSize) (imm : Dword) : 1 + o.width.bytes = (b :: ivBytes o imm).length := by
  rw [List.length_cons, ivBytes_length]; omega

theorem lenM (b : Byte) (reg : BitVec 3) (f : MemForm) : 1 + 1 + f.disp.length = (b :: formBytes reg f).length := by
  rw [List.length_cons, formBytes_length]; omega

theorem lenM2 (b c : Byte) (reg : BitVec 3) (f : MemForm) :
    2 + 1 + f.disp.length = (b :: c :: formBytes reg f).length := by
  rw [List.length_cons, List.length_cons, formBytes_length]; omega

theorem addEbGb (e : RM) (g : Reg) : Statement (.addEbGb e g) := fun h rest =>
  ok_length
    (rowEG_ok ⟨e.ovr, .o16, none⟩ false e g rest 1 (fun e g => .addEbGb e g) h (.inl rfl) (fun h => nomatch h) rfl)
    (lenE _ _ e)

theorem addEvGv (o : OSize) (e : RM) (g : Reg) : Statement (.addEvGv o e g) := fun h rest =>
  ok_length
    (rowEG_ok ⟨e.ovr, o, none⟩ true e g rest 1 (fun e g => .addEvGv o e g) h (.inl rfl) (fun _ => rfl) rfl)
    (lenE _ _ e)

theorem addGbEb (g : Reg) (e : RM) : Statement (.addGbEb g e) := fun h rest =>
  ok_length
    (rowEG_ok ⟨e.ovr, .o16, none⟩ false e g rest 1 (fun e g => .addGbEb g e) h (.inl rfl) (fun h => nomatch h) rfl)
    (lenE _ _ e)

theorem addGvEv (o : OSize) (g : Reg) (e : RM) : Statement (.addGvEv o g e) := fun h rest =>
  ok_length
    (rowEG_ok ⟨e.ovr, o, none⟩ true e g rest 1 (fun e g => .addGvEv o g e) h (.inl rfl) (fun _ => rfl) rfl)
    (lenE _ _ e)

theorem addAlIb (imm : Byte) : Statement (.addAlIb imm) := fun _ rest =>
  rowIb_ok ⟨none, .o16, none⟩ false imm rest 1 (fun imm => .addAlIb imm) (fun h => nomatch h) rfl

theorem addEaxIv (o : OSize) (imm : Dword) : Statement (.addEaxIv o imm) := fun h rest =>
  ok_length (rowIv_ok ⟨none, o, none⟩ imm rest 1 (fun imm => .addEaxIv o imm) h rfl) (lenV _ o imm)

theorem orEbGb (e : RM) (g : Reg) : Statement (.orEbGb e g) := fun h rest =>
  ok_length
    (rowEG_ok ⟨e.ovr, .o16, none⟩ false e g rest 1 (fun e g => .orEbGb e g) h (.inl rfl) (fun h => nomatch h) rfl)
    (lenE _ _ e)

theorem orEvGv (o : OSize) (e : RM) (g : Reg) : Statement (.orEvGv o e g) := fun h rest =>
  ok_length
    (rowEG_ok ⟨e.ovr, o, none⟩ true e g rest 1 (fun e g => .orEvGv o e g) h (.inl rfl) (fun _ => rfl) rfl)
    (lenE _ _ e)

theorem orGbEb (g : Reg) (e : RM) : Statement (.orGbEb g e) := fun h rest =>
  ok_length
    (rowEG_ok ⟨e.ovr, .o16, none⟩ false e g rest 1 (fun e g => .orGbEb g e) h (.inl rfl) (fun h => nomatch h) rfl)
    (lenE _ _ e)

theorem orGvEv (o : OSize) (g : Reg) (e : RM) : Statement (.orGvEv o g e) := fun h rest =>
  ok_length
    (rowEG_ok ⟨e.ovr, o, none⟩ true e g rest 1 (fun e g => .orGvEv o g e) h (.inl rfl) (fun _ => rfl) rfl)
    (lenE _ _ e)

theorem orAlIb (imm : Byte) : Statement (.orAlIb imm) := fun _ rest =>
  rowIb_ok ⟨none, .o16, none⟩ false imm rest 1 (fun imm => .orAlIb imm) (fun h => nomatch h) rfl

theorem orEaxIv (o : OSize) (imm : Dword) : Statement (.orEaxIv o imm) := fun h rest =>
  ok_length (rowIv_ok ⟨none, o, none⟩ imm rest 1 (fun imm => .orEaxIv o imm) h rfl) (lenV _ o imm)

theorem adcEbGb (e : RM) (g : Reg) : Statement (.adcEbGb e g) := fun h rest =>
  ok_length
    (rowEG_ok ⟨e.ovr, .o16, none⟩ false e g rest 1 (fun e g => .adcEbGb e g) h (.inl rfl) (fun h => nomatch h) rfl)
    (lenE _ _ e)

theorem adcEvGv (o : OSize) (e : RM) (g : Reg) : Statement (.adcEvGv o e g) := fun h rest =>
  ok_length
    (rowEG_ok ⟨e.ovr, o, none⟩ true e g rest 1 (fun e g => .adcEvGv o e g) h (.inl rfl) (fun _ => rfl) rfl)
    (lenE _ _ e)

theorem adcGbEb (g : Reg) (e : RM) : Statement (.adcGbEb g e) := fun h rest =>
  ok_length
    (rowEG_ok ⟨e.ovr, .o16, none⟩ false e g rest 1 (fun e g => .adcGbEb g e) h (.inl rfl) (fun h => nomatch h) rfl)
    (lenE _ _ e)

theorem adcGvEv (o : OSize) (g : Reg) (e : RM) : Statement (.adcGvEv o g e) := fun h rest =>
  ok_length
    (rowEG_ok ⟨e.ovr, o, none⟩ true e g rest 1 (fun e g => .adcGvEv o g e) h (.inl rfl) (fun _ => rfl) rfl)
    (lenE _ _ e)

theorem adcAlIb (imm : Byte) : Statement (.adcAlIb imm) := fun _ rest =>
  rowIb_ok ⟨none, .o16, none⟩ false imm rest 1 (fun imm => .adcAlIb imm) (fun h => nomatch h) rfl

theorem adcEaxIv (o : OSize) (imm : Dword) : Statement (.adcEaxIv o imm) := fun h rest =>
  ok_length (rowIv_ok ⟨none, o, none⟩ imm rest 1 (fun imm => .adcEaxIv o imm) h rfl) (lenV _ o imm)

theorem sbbEbGb (e : RM) (g : Reg) : Statement (.sbbEbGb e g) := fun h rest =>
  ok_length
    (rowEG_ok ⟨e.ovr, .o16, none⟩ false e g rest 1 (fun e g => .sbbEbGb e g) h (.inl rfl) (fun h => nomatch h) rfl)
    (lenE _ _ e)

theorem sbbEvGv (o : OSize) (e : RM) (g : Reg) : Statement (.sbbEvGv o e g) := fun h rest =>
  ok_length
    (rowEG_ok ⟨e.ovr, o, none⟩ true e g rest 1 (fun e g => .sbbEvGv o e g) h (.inl rfl) (fun _ => rfl) rfl)
    (lenE _ _ e)

theorem sbbGbEb (g : Reg) (e : RM) : Statement (.sbbGbEb g e) := fun h rest =>
  ok_length
    (rowEG_ok ⟨e.ovr, .o16, none⟩ false e g rest 1 (fun e g => .sbbGbEb g e) h (.inl rfl) (fun h => nomatch h) rfl)
    (lenE _ _ e)

theorem sbbGvEv (o : OSize) (g : Reg) (e : RM) : Statement (.sbbGvEv o g e) := fun h rest =>
  ok_length
    (rowEG_ok ⟨e.ovr, o, none⟩ true e g rest 1 (fun e g => .sbbGvEv o g e) h (.inl rfl) (fun _ => rfl) rfl)
    (lenE _ _ e)

theorem sbbAlIb (imm : Byte) : Statement (.sbbAlIb imm) := fun _ rest =>
  rowIb_ok ⟨none, .o16, none⟩ false imm rest 1 (fun imm => .sbbAlIb imm) (fun h => nomatch h) rfl

theorem sbbEaxIv (o : OSize) (imm : Dword) : Statement (.sbbEaxIv o imm) := fun h rest =>
  ok_length (rowIv_ok ⟨none, o, none⟩ imm rest 1 (fun imm => .sbbEaxIv o imm) h rfl) (lenV _ o imm)

theorem andEbGb (e : RM) (g : Reg) : Statement (.andEbGb e g) := fun h rest =>
  ok_length
    (rowEG_ok ⟨e.ovr, .o16, none⟩ false e g rest 1 (fun e g => .andEbGb e g) h (.inl rfl) (fun h => nomatch h) rfl)
    (lenE _ _ e)

theorem andEvGv (o : OSize) (e : RM) (g : Reg) : Statement (.andEvGv o e g) := fun h rest =>
  ok_length
    (rowEG_ok ⟨e.ovr, o, none⟩ true e g rest 1 (fun e g => .andEvGv o e g) h (.inl rfl) (fun _ => rfl) rfl)
    (lenE _ _ e)

theorem andGbEb (g : Reg) (e : RM) : Statement (.andGbEb g e) := fun h rest =>
  ok_length
    (rowEG_ok ⟨e.ovr, .o16, none⟩ false e g rest 1 (fun e g => .andGbEb g e) h (.inl rfl) (fun h => nomatch h) rfl)
    (lenE _ _ e)

theorem andGvEv (o : OSize) (g : Reg) (e : RM) : Statement (.andGvEv o g e) := fun h rest =>
  ok_length
    (rowEG_ok ⟨e.ovr, o, none⟩ true e g rest 1 (fun e g => .andGvEv o g e) h (.inl rfl) (fun _ => rfl) rfl)
    (lenE _ _ e)

theorem andAlIb (imm : Byte) : Statement (.andAlIb imm) := fun _ rest =>
  rowIb_ok ⟨none, .o16, none⟩ false imm rest 1 (fun imm => .andAlIb imm) (fun h => nomatch h) rfl

theorem andEaxIv (o : OSize) (imm : Dword) : Statement (.andEaxIv o imm) := fun h rest =>
  ok_length (rowIv_ok ⟨none, o, none⟩ imm rest 1 (fun imm => .andEaxIv o imm) h rfl) (lenV _ o imm)

theorem subEbGb (e : RM) (g : Reg) : Statement (.subEbGb e g) := fun h rest =>
  ok_length
    (rowEG_ok ⟨e.ovr, .o16, none⟩ false e g rest 1 (fun e g => .subEbGb e g) h (.inl rfl) (fun h => nomatch h) rfl)
    (lenE _ _ e)

theorem subEvGv (o : OSize) (e : RM) (g : Reg) : Statement (.subEvGv o e g) := fun h rest =>
  ok_length
    (rowEG_ok ⟨e.ovr, o, none⟩ true e g rest 1 (fun e g => .subEvGv o e g) h (.inl rfl) (fun _ => rfl) rfl)
    (lenE _ _ e)

theorem subGbEb (g : Reg) (e : RM) : Statement (.subGbEb g e) := fun h rest =>
  ok_length
    (rowEG_ok ⟨e.ovr, .o16, none⟩ false e g rest 1 (fun e g => .subGbEb g e) h (.inl rfl) (fun h => nomatch h) rfl)
    (lenE _ _ e)

theorem subGvEv (o : OSize) (g : Reg) (e : RM) : Statement (.subGvEv o g e) := fun h rest =>
  ok_length
    (rowEG_ok ⟨e.ovr, o, none⟩ true e g rest 1 (fun e g => .subGvEv o g e) h (.inl rfl) (fun _ => rfl) rfl)
    (lenE _ _ e)

theorem subAlIb (imm : Byte) : Statement (.subAlIb imm) := fun _ rest =>
  rowIb_ok ⟨none, .o16, none⟩ false imm rest 1 (fun imm => .subAlIb imm) (fun h => nomatch h) rfl

theorem subEaxIv (o : OSize) (imm : Dword) : Statement (.subEaxIv o imm) := fun h rest =>
  ok_length (rowIv_ok ⟨none, o, none⟩ imm rest 1 (fun imm => .subEaxIv o imm) h rfl) (lenV _ o imm)

theorem xorEbGb (e : RM) (g : Reg) : Statement (.xorEbGb e g) := fun h rest =>
  ok_length
    (rowEG_ok ⟨e.ovr, .o16, none⟩ false e g rest 1 (fun e g => .xorEbGb e g) h (.inl rfl) (fun h => nomatch h) rfl)
    (lenE _ _ e)

theorem xorEvGv (o : OSize) (e : RM) (g : Reg) : Statement (.xorEvGv o e g) := fun h rest =>
  ok_length
    (rowEG_ok ⟨e.ovr, o, none⟩ true e g rest 1 (fun e g => .xorEvGv o e g) h (.inl rfl) (fun _ => rfl) rfl)
    (lenE _ _ e)

theorem xorGbEb (g : Reg) (e : RM) : Statement (.xorGbEb g e) := fun h rest =>
  ok_length
    (rowEG_ok ⟨e.ovr, .o16, none⟩ false e g rest 1 (fun e g => .xorGbEb g e) h (.inl rfl) (fun h => nomatch h) rfl)
    (lenE _ _ e)

theorem xorGvEv (o : OSize) (g : Reg) (e : RM) : Statement (.xorGvEv o g e) := fun h rest =>
  ok_length
    (rowEG_ok ⟨e.ovr, o, none⟩ true e g rest 1 (fun e g => .xorGvEv o g e) h (.inl rfl) (fun _ => rfl) rfl)
    (lenE _ _ e)

theorem xorAlIb (imm : Byte) : Statement (.xorAlIb imm) := fun _ rest =>
  rowIb_ok ⟨none, .o16, none⟩ false imm rest 1 (fun imm => .xorAlIb imm) (fun h => nomatch h) rfl

theorem xorEaxIv (o : OSize) (imm : Dword) : Statement (.xorEaxIv o imm) := fun h rest =>
  ok_length (rowIv_ok ⟨none, o, none⟩ imm rest 1 (fun imm => .xorEaxIv o imm) h rfl) (lenV _ o imm)

theorem cmpEbGb (e : RM) (g : Reg) : Statement (.cmpEbGb e g) := fun h rest =>
  ok_length
    (rowEG_ok ⟨e.ovr, .o16, none⟩ false e g rest 1 (fun e g => .cmpEbGb e g) h (.inl rfl) (fun h => nomatch h) rfl)
    (lenE _ _ e)

theorem cmpEvGv (o : OSize) (e : RM) (g : Reg) : Statement (.cmpEvGv o e g) := fun h rest =>
  ok_length
    (rowEG_ok ⟨e.ovr, o, none⟩ true e g rest 1 (fun e g => .cmpEvGv o e g) h (.inl rfl) (fun _ => rfl) rfl)
    (lenE _ _ e)

theorem cmpGbEb (g : Reg) (e : RM) : Statement (.cmpGbEb g e) := fun h rest =>
  ok_length
    (rowEG_ok ⟨e.ovr, .o16, none⟩ false e g rest 1 (fun e g => .cmpGbEb g e) h (.inl rfl) (fun h => nomatch h) rfl)
    (lenE _ _ e)

theorem cmpGvEv (o : OSize) (g : Reg) (e : RM) : Statement (.cmpGvEv o g e) := fun h rest =>
  ok_length
    (rowEG_ok ⟨e.ovr, o, none⟩ true e g rest 1 (fun e g => .cmpGvEv o g e) h (.inl rfl) (fun _ => rfl) rfl)
    (lenE _ _ e)

theorem cmpAlIb (imm : Byte) : Statement (.cmpAlIb imm) := fun _ rest =>
  rowIb_ok ⟨none, .o16, none⟩ false imm rest 1 (fun imm => .cmpAlIb imm) (fun h => nomatch h) rfl

theorem cmpEaxIv (o : OSize) (imm : Dword) : Statement (.cmpEaxIv o imm) := fun h rest =>
  ok_length (rowIv_ok ⟨none, o, none⟩ imm rest 1 (fun imm => .cmpEaxIv o imm) h rfl) (lenV _ o imm)

theorem addEbIb (e : RM) (imm : Byte) : Statement (.addEbIb e imm) := fun h rest => by
  refine assoc (y := [imm]) (ok_length ?_ (lenEI _ _ e imm))
  show group80 _ _ _ = _
  refine (takeModRM_e 0 e (imm :: rest) 1 _).trans ?_
  exact tailEIb_ok ⟨e.ovr, .o16, none⟩ false e imm rest 2 (fun e imm => .addEbIb e imm) h (.inl rfl) (fun h => nomatch h) rfl

theorem addEvIv (o : OSize) (e : RM) (imm : Dword) : Statement (.addEvIv o e imm) := fun h rest => by
  refine assoc (ok_length ?_ (lenEV _ _ e o imm))
  show group81 _ _ _ = _
  refine (takeModRM_e 0 e (ivBytes o imm ++ rest) 1 _).trans ?_
  exact tailEIv_ok ⟨e.ovr, o, none⟩ e imm rest 2 (fun e imm => .addEvIv o e imm) (wf_left h) (wf_right h) (.inl rfl) rfl

theorem addEvSIb (o : OSize) (e : RM) (imm : Byte) : Statement (.addEvSIb o e imm) := fun h rest => by
  refine assoc (y := [imm]) (ok_length ?_ (lenEI _ _ e imm))
  show group83 _ _ _ = _
  refine (takeModRM_e 0 e (imm :: rest) 1 _).trans ?_
  exact tailEIb_ok ⟨e.ovr, o, none⟩ true e imm rest 2 (fun e imm => .addEvSIb o e imm) h (.inl rfl) (fun _ => rfl) rfl

theorem orEbIb (e : RM) (imm : Byte) : Statement (.orEbIb e imm) := fun h rest => by
  refine assoc (y := [imm]) (ok_length ?_ (lenEI _ _ e imm))
  show group80 _ _ _ = _
  refine (takeModRM_e 1 e (imm :: rest) 1 _).trans ?_
  exact tailEIb_ok ⟨e.ovr, .o16, none⟩ false e imm rest 2 (fun e imm => .orEbIb e imm) h (.inl rfl) (fun h => nomatch h) rfl

theorem orEvIv (o : OSize) (e : RM) (imm : Dword) : Statement (.orEvIv o e imm) := fun h rest => by
  refine assoc (ok_length ?_ (lenEV _ _ e o imm))
  show group81 _ _ _ = _
  refine (takeModRM_e 1 e (ivBytes o imm ++ rest) 1 _).trans ?_
  exact tailEIv_ok ⟨e.ovr, o, none⟩ e imm rest 2 (fun e imm => .orEvIv o e imm) (wf_left h) (wf_right h) (.inl rfl) rfl

theorem orEvSIb (o : OSize) (e : RM) (imm : Byte) : Statement (.orEvSIb o e imm) := fun h rest => by
  refine assoc (y := [imm]) (ok_length ?_ (lenEI _ _ e imm))
  show group83 _ _ _ = _
  refine (takeModRM_e 1 e (imm :: rest) 1 _).trans ?_
  exact tailEIb_ok ⟨e.ovr, o, none⟩ true e imm rest 2 (fun e imm => .orEvSIb o e imm) h (.inl rfl) (fun _ => rfl) rfl

theorem adcEbIb (e : RM) (imm : Byte) : Statement (.adcEbIb e imm) := fun h rest => by
  refine assoc (y := [imm]) (ok_length ?_ (lenEI _ _ e imm))
  show group80 _ _ _ = _
  refine (takeModRM_e 2 e (imm :: rest) 1 _).trans ?_
  exact tailEIb_ok ⟨e.ovr, .o16, none⟩ false e imm rest 2 (fun e imm => .adcEbIb e imm) h (.inl rfl) (fun h => nomatch h) rfl

theorem adcEvIv (o : OSize) (e : RM) (imm : Dword) : Statement (.adcEvIv o e imm) := fun h rest => by
  refine assoc (ok_length ?_ (lenEV _ _ e o imm))
  show group81 _ _ _ = _
  refine (takeModRM_e 2 e (ivBytes o imm ++ rest) 1 _).trans ?_
  exact tailEIv_ok ⟨e.ovr, o, none⟩ e imm rest 2 (fun e imm => .adcEvIv o e imm) (wf_left h) (wf_right h) (.inl rfl) rfl

theorem adcEvSIb (o : OSize) (e : RM) (imm : Byte) : Statement (.adcEvSIb o e imm) := fun h rest => by
  refine assoc (y := [imm]) (ok_length ?_ (lenEI _ _ e imm))
  show group83 _ _ _ = _
  refine (takeModRM_e 2 e (imm :: rest) 1 _).trans ?_
  exact tailEIb_ok ⟨e.ovr, o, none⟩ true e imm rest 2 (fun e imm => .adcEvSIb o e imm) h (.inl rfl) (fun _ => rfl) rfl

theorem sbbEbIb (e : RM) (imm : Byte) : Statement (.sbbEbIb e imm) := fun h rest => by
  refine assoc (y := [imm]) (ok_length ?_ (lenEI _ _ e imm))
  show group80 _ _ _ = _
  refine (takeModRM_e 3 e (imm :: rest) 1 _).trans ?_
  exact tailEIb_ok ⟨e.ovr, .o16, none⟩ false e imm rest 2 (fun e imm => .sbbEbIb e imm) h (.inl rfl) (fun h => nomatch h) rfl

theorem sbbEvIv (o : OSize) (e : RM) (imm : Dword) : Statement (.sbbEvIv o e imm) := fun h rest => by
  refine assoc (ok_length ?_ (lenEV _ _ e o imm))
  show group81 _ _ _ = _
  refine (takeModRM_e 3 e (ivBytes o imm ++ rest) 1 _).trans ?_
  exact tailEIv_ok ⟨e.ovr, o, none⟩ e imm rest 2 (fun e imm => .sbbEvIv o e imm) (wf_left h) (wf_right h) (.inl rfl) rfl

theorem sbbEvSIb (o : OSize) (e : RM) (imm : Byte) : Statement (.sbbEvSIb o e imm) := fun h rest => by
  refine assoc (y := [imm]) (ok_length ?_ (lenEI _ _ e imm))
  show group83 _ _ _ = _
  refine (takeModRM_e 3 e (imm :: rest) 1 _).trans ?_
  exact tailEIb_ok ⟨e.ovr, o, none⟩ true e imm rest 2 (fun e imm => .sbbEvSIb o e imm) h (.inl rfl) (fun _ => rfl) rfl

theorem andEbIb (e : RM) (imm : Byte) : Statement (.andEbIb e imm) := fun h rest => by
  refine assoc (y := [imm]) (ok_length ?_ (lenEI _ _ e imm))
  show group80 _ _ _ = _
  refine (takeModRM_e 4 e (imm :: rest) 1 _).trans ?_
  exact tailEIb_ok ⟨e.ovr, .o16, none⟩ false e imm rest 2 (fun e imm => .andEbIb e imm) h (.inl rfl) (fun h => nomatch h) rfl

theorem andEvIv (o : OSize) (e : RM) (imm : Dword) : Statement (.andEvIv o e imm) := fun h rest => by
  refine assoc (ok_length ?_ (lenEV _ _ e o imm))
  show group81 _ _ _ = _
  refine (takeModRM_e 4 e (ivBytes o imm ++ rest) 1 _).trans ?_
  exact tailEIv_ok ⟨e.ovr, o, none⟩ e imm rest 2 (fun e imm => .andEvIv o e imm) (wf_left h) (wf_right h) (.inl rfl) rfl

theorem andEvSIb (o : OSize) (e : RM) (imm : Byte) : Statement (.andEvSIb o e imm) := fun h rest => by
  refine assoc (y := [imm]) (ok_length ?_ (lenEI _ _ e imm))
  show group83 _ _ _ = _
  refine (takeModRM_e 4 e (imm :: rest) 1 _).trans ?_
  exact tailEIb_ok ⟨e.ovr, o, none⟩ true e imm rest 2 (fun e imm => .andEvSIb o e imm) h (.inl rfl) (fun _ => rfl) rfl

theorem subEbIb (e : RM) (imm : Byte) : Statement (.subEbIb e imm) := fun h rest => by
  refine assoc (y := [imm]) (ok_length ?_ (lenEI _ _ e imm))
  show group80 _ _ _ = _
  refine (takeModRM_e 5 e (imm :: rest) 1 _).trans ?_
  exact tailEIb_ok ⟨e.ovr, .o16, none⟩ false e imm rest 2 (fun e imm => .subEbIb e imm) h (.inl rfl) (fun h => nomatch h) rfl

theorem subEvIv (o : OSize) (e : RM) (imm : Dword) : Statement (.subEvIv o e imm) := fun h rest => by
  refine assoc (ok_length ?_ (lenEV _ _ e o imm))
  show group81 _ _ _ = _
  refine (takeModRM_e 5 e (ivBytes o imm ++ rest) 1 _).trans ?_
  exact tailEIv_ok ⟨e.ovr, o, none⟩ e imm rest 2 (fun e imm => .subEvIv o e imm) (wf_left h) (wf_right h) (.inl rfl) rfl

theorem subEvSIb (o : OSize) (e : RM) (imm : Byte) : Statement (.subEvSIb o e imm) := fun h rest => by
  refine assoc (y := [imm]) (ok_length ?_ (lenEI _ _ e imm))
  show group83 _ _ _ = _
  refine (takeModRM_e 5 e (imm :: rest) 1 _).trans ?_
  exact tailEIb_ok ⟨e.ovr, o, none⟩ true e imm rest 2 (fun e imm => .subEvSIb o e imm) h (.inl rfl) (fun _ => rfl) rfl

theorem xorEbIb (e : RM) (imm : Byte) : Statement (.xorEbIb e imm) := fun h rest => by
  refine assoc (y := [imm]) (ok_length ?_ (lenEI _ _ e imm))
  show group80 _ _ _ = _
  refine (takeModRM_e 6 e (imm :: rest) 1 _).trans ?_
  exact tailEIb_ok ⟨e.ovr, .o16, none⟩ false e imm rest 2 (fun e imm => .xorEbIb e imm) h (.inl rfl) (fun h => nomatch h) rfl

theorem xorEvIv (o : OSize) (e : RM) (imm : Dword) : Statement (.xorEvIv o e imm) := fun h rest => by
  refine assoc (ok_length ?_ (lenEV _ _ e o imm))
  show group81 _ _ _ = _
  refine (takeModRM_e 6 e (ivBytes o imm ++ rest) 1 _).trans ?_
  exact tailEIv_ok ⟨e.ovr, o, none⟩ e imm rest 2 (fun e imm => .xorEvIv o e imm) (wf_left h) (wf_right h) (.inl rfl) rfl

theorem xorEvSIb (o : OSize) (e : RM) (imm : Byte) : Statement (.xorEvSIb o e imm) := fun h rest => by
  refine assoc (y := [imm]) (ok_length ?_ (lenEI _ _ e imm))
  show group83 _ _ _ = _
  refine (takeModRM_e 6 e (imm :: rest) 1 _).trans ?_
  exact tailEIb_ok ⟨e.ovr, o, none⟩ true e imm rest 2 (fun e imm => .xorEvSIb o e imm) h (.inl rfl) (fun _ => rfl) rfl

theorem cmpEbIb (e : RM) (imm : Byte) : Statement (.cmpEbIb e imm) := fun h rest => by
  refine assoc (y := [imm]) (ok_length ?_ (lenEI _ _ e imm))
  show group80 _ _ _ = _
  refine (takeModRM_e 7 e (imm :: rest) 1 _).trans ?_
  exact tailEIb_ok ⟨e.ovr, .o16, none⟩ false e imm rest 2 (fun e imm => .cmpEbIb e imm) h (.inl rfl) (fun h => nomatch h) rfl

theorem cmpEvIv (o : OSize) (e : RM) (imm : Dword) : Statement (.cmpEvIv o e imm) := fun h rest => by
  refine assoc (ok_length ?_ (lenEV _ _ e o imm))
  show group81 _ _ _ = _
  refine (takeModRM_e 7 e (ivBytes o imm ++ rest) 1 _).trans ?_
  exact tailEIv_ok ⟨e.ovr, o, none⟩ e imm rest 2 (fun e imm => .cmpEvIv o e imm) (wf_left h) (wf_right h) (.inl rfl) rfl

theorem cmpEvSIb (o : OSize) (e : RM) (imm : Byte) : Statement (.cmpEvSIb o e imm) := fun h rest => by
  refine assoc (y := [imm]) (ok_length ?_ (lenEI _ _ e imm))
  show group83 _ _ _ = _
  refine (takeModRM_e 7 e (imm :: rest) 1 _).trans ?_
  exact tailEIb_ok ⟨e.ovr, o, none⟩ true e imm rest 2 (fun e imm => .cmpEvSIb o e imm) h (.inl rfl) (fun _ => rfl) rfl

theorem testEbGb (e : RM) (g : Reg) : Statement (.testEbGb e g) := fun h rest =>
  ok_length
    (rowEG_ok ⟨e.ovr, .o16, none⟩ false e g rest 1 (fun e g => .testEbGb e g) h (.inl rfl) (fun h => nomatch h) rfl)
    (lenE _ _ e)

theorem testEvGv (o : OSize) (e : RM) (g : Reg) : Statement (.testEvGv o e g) := fun h rest =>
  ok_length
    (rowEG_ok ⟨e.ovr, o, none⟩ true e g rest 1 (fun e g => .testEvGv o e g) h (.inl rfl) (fun _ => rfl) rfl)
    (lenE _ _ e)

theorem testAlIb (imm : Byte) : Statement (.testAlIb imm) := fun _ rest =>
  rowIb_ok ⟨none, .o16, none⟩ false imm rest 1 (fun imm => .testAlIb imm) (fun h => nomatch h) rfl

theorem testEaxIv (o : OSize) (imm : Dword) : Statement (.testEaxIv o imm) := fun h rest =>
  ok_length (rowIv_ok ⟨none, o, none⟩ imm rest 1 (fun imm => .testEaxIv o imm) h rfl) (lenV _ o imm)

theorem testEbIb (e : RM) (imm : Byte) : Statement (.testEbIb e imm) := fun h rest => by
  refine assoc (y := [imm]) (ok_length ?_ (lenEI _ _ e imm))
  show groupF6 _ _ _ = _
  refine (takeModRM_e 0 e (imm :: rest) 1 _).trans ?_
  exact tailEIb_ok ⟨e.ovr, .o16, none⟩ false e imm rest 2 (fun e imm => .testEbIb e imm) h (.inl rfl) (fun h => nomatch h) rfl

theorem testEvIv (o : OSize) (e : RM) (imm : Dword) : Statement (.testEvIv o e imm) := fun h rest => by
  refine assoc (ok_length ?_ (lenEV _ _ e o imm))
  show groupF7 _ _ _ = _
  refine (takeModRM_e 0 e (ivBytes o imm ++ rest) 1 _).trans ?_
  exact tailEIv_ok ⟨e.ovr, o, none⟩ e imm rest 2 (fun e imm => .testEvIv o e imm) (wf_left h) (wf_right h) (.inl rfl) rfl

theorem incReg (o : OSize) (r : Reg) : Statement (.incReg o r) := fun _ _ => by
  cases r <;> exact rowNone_ok ⟨none, o, none⟩ true 1 _ (fun _ => rfl) rfl

theorem incEb (e : RM) : Statement (.incEb e) := fun h rest => by
  refine ok_length ?_ (lenE _ _ e)
  show groupFE _ _ _ = _
  refine (takeModRM_e 0 e rest 1 _).trans ?_
  exact tailE_ok ⟨e.ovr, .o16, none⟩ false e rest 2 (fun e => .incEb e) h (.inl rfl) (fun h => nomatch h) rfl

theorem incEv (o : OSize) (e : RM) : Statement (.incEv o e) := fun h rest => by
  refine ok_length ?_ (lenE _ _ e)
  show groupFF _ _ _ = _
  refine (takeModRM_e 0 e rest 1 _).trans ?_
  exact tailE_ok ⟨e.ovr, o, none⟩ true e rest 2 (fun e => .incEv o e) h (.inl rfl) (fun _ => rfl) rfl

theorem decReg (o : OSize) (r : Reg) : Statement (.decReg o r) := fun _ _ => by
  cases r <;> exact rowNone_ok ⟨none, o, none⟩ true 1 _ (fun _ => rfl) rfl

theorem decEb (e : RM) : Statement (.decEb e) := fun h rest => by
  refine ok_length ?_ (lenE _ _ e)
  show groupFE _ _ _ = _
  refine (takeModRM_e 1 e rest 1 _).trans ?_
  exact tailE_ok ⟨e.ovr, .o16, none⟩ false e rest 2 (fun e => .decEb e) h (.inl rfl) (fun h => nomatch h) rfl

theorem decEv (o : OSize) (e : RM) : Statement (.decEv o e) := fun h rest => by
  refine ok_length ?_ (lenE _ _ e)
  show groupFF _ _ _ = _
  refine (takeModRM_e 1 e rest 1 _).trans ?_
  exact tailE_ok ⟨e.ovr, o, none⟩ true e rest 2 (fun e => .decEv o e) h (.inl rfl) (fun _ => rfl) rfl

theorem notEb (e : RM) : Statement (.notEb e) := fun h rest => by
  refine ok_length ?_ (lenE _ _ e)
  show groupF6 _ _ _ = _
  refine (takeModRM_e 2 e rest 1 _).trans ?_
  exact tailE_ok ⟨e.ovr, .o16, none⟩ false e rest 2 (fun e => .notEb e) h (.inl rfl) (fun h => nomatch h) rfl

theorem notEv (o : OSize) (e : RM) : Statement (.notEv o e) := fun h rest => by
  refine ok_length ?_ (lenE _ _ e)
  show groupF7 _ _ _ = _
  refine (takeModRM_e 2 e rest 1 _).trans ?_
  exact tailE_ok ⟨e.ovr, o, none⟩ true e rest 2 (fun e => .notEv o e) h (.inl rfl) (fun _ => rfl) rfl

theorem negEb (e : RM) : Statement (.negEb e) := fun h rest => by
  refine ok_length ?_ (lenE _ _ e)
  show groupF6 _ _ _ = _
  refine (takeModRM_e 3 e rest 1 _).trans ?_
  exact tailE_ok ⟨e.ovr, .o16, none⟩ false e rest 2 (fun e => .negEb e) h (.inl rfl) (fun h => nomatch h) rfl

theorem negEv (o : OSize) (e : RM) : Statement (.negEv o e) := fun h rest => by
  refine ok_length ?_ (lenE _ _ e)
  show groupF7 _ _ _ = _
  refine (takeModRM_e 3 e rest 1 _).trans ?_
  exact tailE_ok ⟨e.ovr, o, none⟩ true e rest 2 (fun e => .negEv o e) h (.inl rfl) (fun _ => rfl) rfl

theorem mulEb (e : RM) : Statement (.mulEb e) := fun h rest => by
  refine ok_length ?_ (lenE _ _ e)
  show groupF6 _ _ _ = _
  refine (takeModRM_e 4 e rest 1 _).trans ?_
  exact tailE_ok ⟨e.ovr, .o16, none⟩ false e rest 2 (fun e => .mulEb e) h (.inl rfl) (fun h => nomatch h) rfl

theorem mulEv (o : OSize) (e : RM) : Statement (.mulEv o e) := fun h rest => by
  refine ok_length ?_ (lenE _ _ e)
  show groupF7 _ _ _ = _
  refine (takeModRM_e 4 e rest 1 _).trans ?_
  exact tailE_ok ⟨e.ovr, o, none⟩ true e rest 2 (fun e => .mulEv o e) h (.inl rfl) (fun _ => rfl) rfl

theorem imulEb (e : RM) : Statement (.imulEb e) := fun h rest => by
  refine ok_length ?_ (lenE _ _ e)
  show groupF6 _ _ _ = _
  refine (takeModRM_e 5 e rest 1 _).trans ?_
  exact tailE_ok ⟨e.ovr, .o16, none⟩ false e rest 2 (fun e => .imulEb e) h (.inl rfl) (fun h => nomatch h) rfl

theorem imulEv (o : OSize) (e : RM) : Statement (.imulEv o e) := fun h rest => by
  refine ok_length ?_ (lenE _ _ e)
  show groupF7 _ _ _ = _
  refine (takeModRM_e 5 e rest 1 _).trans ?_
  exact tailE_ok ⟨e.ovr, o, none⟩ true e rest 2 (fun e => .imulEv o e) h (.inl rfl) (fun _ => rfl) rfl

theorem divEb (e : RM) : Statement (.divEb e) := fun h rest => by
  refine ok_length ?_ (lenE _ _ e)
  show groupF6 _ _ _ = _
  refine (takeModRM_e 6 e rest 1 _).trans ?_
  exact tailE_ok ⟨e.ovr, .o16, none⟩ false e rest 2 (fun e => .divEb e) h (.inl rfl) (fun h => nomatch h) rfl

theorem divEv (o : OSize) (e : RM) : Statement (.divEv o e) := fun h rest => by
  refine ok_length ?_ (lenE _ _ e)
  show groupF7 _ _ _ = _
  refine (takeModRM_e 6 e rest 1 _).trans ?_
  exact tailE_ok ⟨e.ovr, o, none⟩ true e rest 2 (fun e => .divEv o e) h (.inl rfl) (fun _ => rfl) rfl

theorem idivEb (e : RM) : Statement (.idivEb e) := fun h rest => by
  refine ok_length ?_ (lenE _ _ e)
  show groupF6 _ _ _ = _
  refine (takeModRM_e 7 e rest 1 _).trans ?_
  exact tailE_ok ⟨e.ovr, .o16, none⟩ false e rest 2 (fun e => .idivEb e) h (.inl rfl) (fun h => nomatch h) rfl

theorem idivEv (o : OSize) (e : RM) : Statement (.idivEv o e) := fun h rest => by
  refine ok_length ?_ (lenE _ _ e)
  show groupF7 _ _ _ = _
  refine (takeModRM_e 7 e rest 1 _).trans ?_
  exact tailE_ok ⟨e.ovr, o, none⟩ true e rest 2 (fun e => .idivEv o e) h (.inl rfl) (fun _ => rfl) rfl

theorem cbw : Statement (.cbw) := fun _ _ => rfl

theorem cwde : Statement (.cwde) := fun _ _ => rfl

theorem cwd : Statement (.cwd) := fun _ _ => rfl

theorem cdq : Statement (.cdq) := fun _ _ => rfl

theorem rolEbIb (e : RM) (imm : Byte) : Statement (.rolEbIb e imm) := fun h rest => by
  refine assoc (y := [imm]) (ok_length ?_ (lenEI _ _ e imm))
  show groupC0 _ _ _ = _
  refine (takeModRM_e 0 e (imm :: rest) 1 _).trans ?_
  exact tailEIb_ok ⟨e.ovr, .o16, none⟩ false e imm rest 2 (fun e imm => .rolEbIb e imm) h (.inl rfl) (fun h => nomatch h) rfl

theorem rolEvIb (o : OSize) (e : RM) (imm : Byte) : Statement (.rolEvIb o e imm) := fun h rest => by
  refine assoc (y := [imm]) (ok_length ?_ (lenEI _ _ e imm))
  show groupC1 _ _ _ = _
  refine (takeModRM_e 0 e (imm :: rest) 1 _).trans ?_
  exact tailEIb_ok ⟨e.ovr, o, none⟩ true e imm rest 2 (fun e imm => .rolEvIb o e imm) h (.inl rfl) (fun _ => rfl) rfl

theorem rolEb1 (e : RM) : Statement (.rolEb1 e) := fun h rest => by
  refine ok_length ?_ (lenE _ _ e)
  show groupD0 _ _ _ = _
  refine (takeModRM_e 0 e rest 1 _).trans ?_
  exact tailE_ok ⟨e.ovr, .o16, none⟩ false e rest 2 (fun e => .rolEb1 e) h (.inl rfl) (fun h => nomatch h) rfl

theorem rolEv1 (o : OSize) (e : RM) : Statement (.rolEv1 o e) := fun h rest => by
  refine ok_length ?_ (lenE _ _ e)
  show groupD1 _ _ _ = _
  refine (takeModRM_e 0 e rest 1 _).trans ?_
  exact tailE_ok ⟨e.ovr, o, none⟩ true e rest 2 (fun e => .rolEv1 o e) h (.inl rfl) (fun _ => rfl) rfl

theorem rolEbCl (e : RM) : Statement (.rolEbCl e) := fun h rest => by
  refine ok_length ?_ (lenE _ _ e)
  show groupD2 _ _ _ = _
  refine (takeModRM_e 0 e rest 1 _).trans ?_
  exact tailE_ok ⟨e.ovr, .o16, none⟩ false e rest 2 (fun e => .rolEbCl e) h (.inl rfl) (fun h => nomatch h) rfl

theorem rolEvCl (o : OSize) (e : RM) : Statement (.rolEvCl o e) := fun h rest => by
  refine ok_length ?_ (lenE _ _ e)
  show groupD3 _ _ _ = _
  refine (takeModRM_e 0 e rest 1 _).trans ?_
  exact tailE_ok ⟨e.ovr, o, none⟩ true e rest 2 (fun e => .rolEvCl o e) h (.inl rfl) (fun _ => rfl) rfl

theorem rorEbIb (e : RM) (imm : Byte) : Statement (.rorEbIb e imm) := fun h rest => by
  refine assoc (y := [imm]) (ok_length ?_ (lenEI _ _ e imm))
  show groupC0 _ _ _ = _
  refine (takeModRM_e 1 e (imm :: rest) 1 _).trans ?_
  exact tailEIb_ok ⟨e.ovr, .o16, none⟩ false e imm rest 2 (fun e imm => .rorEbIb e imm) h (.inl rfl) (fun h => nomatch h) rfl

theorem rorEvIb (o : OSize) (e : RM) (imm : Byte) : Statement (.rorEvIb o e imm) := fun h rest => by
  refine assoc (y := [imm]) (ok_length ?_ (lenEI _ _ e imm))
  show groupC1 _ _ _ = _
  refine (takeModRM_e 1 e (imm :: rest) 1 _).trans ?_
  exact tailEIb_ok ⟨e.ovr, o, none⟩ true e imm rest 2 (fun e imm => .rorEvIb o e imm) h (.inl rfl) (fun _ => rfl) rfl

theorem rorEb1 (e : RM) : Statement (.rorEb1 e) := fun h rest => by
  refine ok_length ?_ (lenE _ _ e)
  show groupD0 _ _ _ = _
  refine (takeModRM_e 1 e rest 1 _).trans ?_
  exact tailE_ok ⟨e.ovr, .o16, none⟩ false e rest 2 (fun e => .rorEb1 e) h (.inl rfl) (fun h => nomatch h) rfl

theorem rorEv1 (o : OSize) (e : RM) : Statement (.rorEv1 o e) := fun h rest => by
  refine ok_length ?_ (lenE _ _ e)
  show groupD1 _ _ _ = _
  refine (takeModRM_e 1 e rest 1 _).trans ?_
  exact tailE_ok ⟨e.ovr, o, none⟩ true e rest 2 (fun e => .rorEv1 o e) h (.inl rfl) (fun _ => rfl) rfl

theorem rorEbCl (e : RM) : Statement (.rorEbCl e) := fun h rest => by
  refine ok_length ?_ (lenE _ _ e)
  show groupD2 _ _ _ = _
  refine (takeModRM_e 1 e rest 1 _).trans ?_
  exact tailE_ok ⟨e.ovr, .o16, none⟩ false e rest 2 (fun e => .rorEbCl e) h (.inl rfl) (fun h => nomatch h) rfl

theorem rorEvCl (o : OSize) (e : RM) : Statement (.rorEvCl o e) := fun h rest => by
  refine ok_length ?_ (lenE _ _ e)
  show groupD3 _ _ _ = _
  refine (takeModRM_e 1 e rest 1 _).trans ?_
  exact tailE_ok ⟨e.ovr, o, none⟩ true e rest 2 (fun e => .rorEvCl o e) h (.inl rfl) (fun _ => rfl) rfl

theorem rclEbIb (e : RM) (imm : Byte) : Statement (.rclEbIb e imm) := fun h rest => by
  refine assoc (y := [imm]) (ok_length ?_ (lenEI _ _ e imm))
  show groupC0 _ _ _ = _
  refine (takeModRM_e 2 e (imm :: rest) 1 _).trans ?_
  exact tailEIb_ok ⟨e.ovr, .o16, none⟩ false e imm rest 2 (fun e imm => .rclEbIb e imm) h (.inl rfl) (fun h => nomatch h) rfl

theorem rclEvIb (o : OSize) (e : RM) (imm : Byte) : Statement (.rclEvIb o e imm) := fun h rest => by
  refine assoc (y := [imm]) (ok_length ?_ (lenEI _ _ e imm))
  show groupC1 _ _ _ = _
  refine (takeModRM_e 2 e (imm :: rest) 1 _).trans ?_
  exact tailEIb_ok ⟨e.ovr, o, none⟩ true e imm rest 2 (fun e imm => .rclEvIb o e imm) h (.inl rfl) (fun _ => rfl) rfl

theorem rclEb1 (e : RM) : Statement (.rclEb1 e) := fun h rest => by
  refine ok_length ?_ (lenE _ _ e)
  show groupD0 _ _ _ = _
  refine (takeModRM_e 2 e rest 1 _).trans ?_
  exact tailE_ok ⟨e.ovr, .o16, none⟩ false e rest 2 (fun e => .rclEb1 e) h (.inl rfl) (fun h => nomatch h) rfl

theorem rclEv1 (o : OSize) (e : RM) : Statement (.rclEv1 o e) := fun h rest => by
  refine ok_length ?_ (lenE _ _ e)
  show groupD1 _ _ _ = _
  refine (takeModRM_e 2 e rest 1 _).trans ?_
  exact tailE_ok ⟨e.ovr, o, none⟩ true e rest 2 (fun e => .rclEv1 o e) h (.inl rfl) (fun _ => rfl) rfl

theorem rclEbCl (e : RM) : Statement (.rclEbCl e) := fun h rest => by
  refine ok_length ?_ (lenE _ _ e)
  show groupD2 _ _ _ = _
  refine (takeModRM_e 2 e rest 1 _).trans ?_
  exact tailE_ok ⟨e.ovr, .o16, none⟩ false e rest 2 (fun e => .rclEbCl e) h (.inl rfl) (fun h => nomatch h) rfl

theorem rclEvCl (o : OSize) (e : RM) : Statement (.rclEvCl o e) := fun h rest => by
  refine ok_length ?_ (lenE _ _ e)
  show groupD3 _ _ _ = _
  refine (takeModRM_e 2 e rest 1 _).trans ?_
  exact tailE_ok ⟨e.ovr, o, none⟩ true e rest 2 (fun e => .rclEvCl o e) h (.inl rfl) (fun _ => rfl) rfl

theorem rcrEbIb (e : RM) (imm : Byte) : Statement (.rcrEbIb e imm) := fun h rest => by
  refine assoc (y := [imm]) (ok_length ?_ (lenEI _ _ e imm))
  show groupC0 _ _ _ = _
  refine (takeModRM_e 3 e (imm :: rest) 1 _).trans ?_
  exact tailEIb_ok ⟨e.ovr, .o16, none⟩ false e imm rest 2 (fun e imm => .rcrEbIb e imm) h (.inl rfl) (fun h => nomatch h) rfl

theorem rcrEvIb (o : OSize) (e : RM) (imm : Byte) : Statement (.rcrEvIb o e imm) := fun h rest => by
  refine assoc (y := [imm]) (ok_length ?_ (lenEI _ _ e imm))
  show groupC1 _ _ _ = _
  refine (takeModRM_e 3 e (imm :: rest) 1 _).trans ?_
  exact tailEIb_ok ⟨e.ovr, o, none⟩ true e imm rest 2 (fun e imm => .rcrEvIb o e imm) h (.inl rfl) (fun _ => rfl) rfl

theorem rcrEb1 (e : RM) : Statement (.rcrEb1 e) := fun h rest => by
  refine ok_length ?_ (lenE _ _ e)
  show groupD0 _ _ _ = _
  refine (takeModRM_e 3 e rest 1 _).trans ?_
  exact tailE_ok ⟨e.ovr, .o16, none⟩ false e rest 2 (fun e => .rcrEb1 e) h (.inl rfl) (fun h => nomatch h) rfl

theorem rcrEv1 (o : OSize) (e : RM) : Statement (.rcrEv1 o e) := fun h rest => by
  refine ok_length ?_ (lenE _ _ e)
  show groupD1 _ _ _ = _
  refine (takeModRM_e 3 e rest 1 _).trans ?_
  exact tailE_ok ⟨e.ovr, o, none⟩ true e rest 2 (fun e => .rcrEv1 o e) h (.inl rfl) (fun _ => rfl) rfl

theorem rcrEbCl (e : RM) : Statement (.rcrEbCl e) := fun h rest => by
  refine ok_length ?_ (lenE _ _ e)
  show groupD2 _ _ _ = _
  refine (takeModRM_e 3 e rest 1 _).trans ?_
  exact tailE_ok ⟨e.ovr, .o16, none⟩ false e rest 2 (fun e => .rcrEbCl e) h (.inl rfl) (fun h => nomatch h) rfl

theorem rcrEvCl (o : OSize) (e : RM) : Statement (.rcrEvCl o e) := fun h rest => by
  refine ok_length ?_ (lenE _ _ e)
  show groupD3 _ _ _ = _
  refine (takeModRM_e 3 e rest 1 _).trans ?_
  exact tailE_ok ⟨e.ovr, o, none⟩ true e rest 2 (fun e => .rcrEvCl o e) h (.inl rfl) (fun _ => rfl) rfl

theorem shlEbIb (e : RM) (imm : Byte) : Statement (.shlEbIb e imm) := fun h rest => by
  refine assoc (y := [imm]) (ok_length ?_ (lenEI _ _ e imm))
  show groupC0 _ _ _ = _
  refine (takeModRM_e 4 e (imm :: rest) 1 _).trans ?_
  exact tailEIb_ok ⟨e.ovr, .o16, none⟩ false e imm rest 2 (fun e imm => .shlEbIb e imm) h (.inl rfl) (fun h => nomatch h) rfl

theorem shlEvIb (o : OSize) (e : RM) (imm : Byte) : Statement (.shlEvIb o e imm) := fun h rest => by
  refine assoc (y := [imm]) (ok_length ?_ (lenEI _ _ e imm))
  show groupC1 _ _ _ = _
  refine (takeModRM_e 4 e (imm :: rest) 1 _).trans ?_
  exact tailEIb_ok ⟨e.ovr, o, none⟩ true e imm rest 2 (fun e imm => .shlEvIb o e imm) h (.inl rfl) (fun _ => rfl) rfl

theorem shlEb1 (e : RM) : Statement (.shlEb1 e) := fun h rest => by
  refine ok_length ?_ (lenE _ _ e)
  show groupD0 _ _ _ = _
  refine (takeModRM_e 4 e rest 1 _).trans ?_
  exact tailE_ok ⟨e.ovr, .o16, none⟩ false e rest 2 (fun e => .shlEb1 e) h (.inl rfl) (fun h => nomatch h) rfl

theorem shlEv1 (o : OSize) (e : RM) : Statement (.shlEv1 o e) := fun h rest => by
  refine ok_length ?_ (lenE _ _ e)
  show groupD1 _ _ _ = _
  refine (takeModRM_e 4 e rest 1 _).trans ?_
  exact tailE_ok ⟨e.ovr, o, none⟩ true e rest 2 (fun e => .shlEv1 o e) h (.inl rfl) (fun _ => rfl) rfl

theorem shlEbCl (e : RM) : Statement (.shlEbCl e) := fun h rest => by
  refine ok_length ?_ (lenE _ _ e)
  show groupD2 _ _ _ = _
  refine (takeModRM_e 4 e rest 1 _).trans ?_
  exact tailE_ok ⟨e.ovr, .o16, none⟩ false e rest 2 (fun e => .shlEbCl e) h (.inl rfl) (fun h => nomatch h) rfl

theorem shlEvCl (o : OSize) (e : RM) : Statement (.shlEvCl o e) := fun h rest => by
  refine ok_length ?_ (lenE _ _ e)
  show groupD3 _ _ _ = _
  refine (takeModRM_e 4 e rest 1 _).trans ?_
  exact tailE_ok ⟨e.ovr, o, none⟩ true e rest 2 (fun e => .shlEvCl o e) h (.inl rfl) (fun _ => rfl) rfl

theorem shrEbIb (e : RM) (imm : Byte) : Statement (.shrEbIb e imm) := fun h rest => by
  refine assoc (y := [imm]) (ok_length ?_ (lenEI _ _ e imm))
  show groupC0 _ _ _ = _
  refine (takeModRM_e 5 e (imm :: rest) 1 _).trans ?_
  exact tailEIb_ok ⟨e.ovr, .o16, none⟩ false e imm rest 2 (fun e imm => .shrEbIb e imm) h (.inl rfl) (fun h => nomatch h) rfl

theorem shrEvIb (o : OSize) (e : RM) (imm : Byte) : Statement (.shrEvIb o e imm) := fun h rest => by
  refine assoc (y := [imm]) (ok_length ?_ (lenEI _ _ e imm))
  show groupC1 _ _ _ = _
  refine (takeModRM_e 5 e (imm :: rest) 1 _).trans ?_
  exact tailEIb_ok ⟨e.ovr, o, none⟩ true e imm rest 2 (fun e imm => .shrEvIb o e imm) h (.inl rfl) (fun _ => rfl) rfl

theorem shrEb1 (e : RM) : Statement (.shrEb1 e) := fun h rest => by
  refine ok_length ?_ (lenE _ _ e)
  show groupD0 _ _ _ = _
  refine (takeModRM_e 5 e rest 1 _).trans ?_
  exact tailE_ok ⟨e.ovr, .o16, none⟩ false e rest 2 (fun e => .shrEb1 e) h (.inl rfl) (fun h => nomatch h) rfl

theorem shrEv1 (o : OSize) (e : RM) : Statement (.shrEv1 o e) := fun h rest => by
  refine ok_length ?_ (lenE _ _ e)
  show groupD1 _ _ _ = _
  refine (takeModRM_e 5 e rest 1 _).trans ?_
  exact tailE_ok ⟨e.ovr, o, none⟩ true e rest 2 (fun e => .shrEv1 o e) h (.inl rfl) (fun _ => rfl) rfl

theorem shrEbCl (e : RM) : Statement (.shrEbCl e) := fun h rest => by
  refine ok_length ?_ (lenE _ _ e)
  show groupD2 _ _ _ = _
  refine (takeModRM_e 5 e rest 1 _).trans ?_
  exact tailE_ok ⟨e.ovr, .o16, none⟩ false e rest 2 (fun e => .shrEbCl e) h (.inl rfl) (fun h => nomatch h) rfl

theorem shrEvCl (o : OSize) (e : RM) : Statement (.shrEvCl o e) := fun h rest => by
  refine ok_length ?_ (lenE _ _ e)
  show groupD3 _ _ _ = _
  refine (takeModRM_e 5 e rest 1 _).trans ?_
  exact tailE_ok ⟨e.ovr, o, none⟩ true e rest 2 (fun e => .shrEvCl o e) h (.inl rfl) (fun _ => rfl) rfl

theorem sarEbIb (e : RM) (imm : Byte) : Statement (.sarEbIb e imm) := fun h rest => by
  refine assoc (y := [imm]) (ok_length ?_ (lenEI _ _ e imm))
  show groupC0 _ _ _ = _
  refine (takeModRM_e 7 e (imm :: rest) 1 _).trans ?_
  exact tailEIb_ok ⟨e.ovr, .o16, none⟩ false e imm rest 2 (fun e imm => .sarEbIb e imm) h (.inl rfl) (fun h => nomatch h) rfl

theorem sarEvIb (o : OSize) (e : RM) (imm : Byte) : Statement (.sarEvIb o e imm) := fun h rest => by
  refine assoc (y := [imm]) (ok_length ?_ (lenEI _ _ e imm))
  show groupC1 _ _ _ = _
  refine (takeModRM_e 7 e (imm :: rest) 1 _).trans ?_
  exact tailEIb_ok ⟨e.ovr, o, none⟩ true e imm rest 2 (fun e imm => .sarEvIb o e imm) h (.inl rfl) (fun _ => rfl) rfl

theorem sarEb1 (e : RM) : Statement (.sarEb1 e) := fun h rest => by
  refine ok_length ?_ (lenE _ _ e)
  show groupD0 _ _ _ = _
  refine (takeModRM_e 7 e rest 1 _).trans ?_
  exact tailE_ok ⟨e.ovr, .o16, none⟩ false e rest 2 (fun e => .sarEb1 e) h (.inl rfl) (fun h => nomatch h) rfl

theorem sarEv1 (o : OSize) (e : RM) : Statement (.sarEv1 o e) := fun h rest => by
  refine ok_length ?_ (lenE _ _ e)
  show groupD1 _ _ _ = _
  refine (takeModRM_e 7 e rest 1 _).trans ?_
  exact tailE_ok ⟨e.ovr, o, none⟩ true e rest 2 (fun e => .sarEv1 o e) h (.inl rfl) (fun _ => rfl) rfl

theorem sarEbCl (e : RM) : Statement (.sarEbCl e) := fun h rest => by
  refine ok_length ?_ (lenE _ _ e)
  show groupD2 _ _ _ = _
  refine (takeModRM_e 7 e rest 1 _).trans ?_
  exact tailE_ok ⟨e.ovr, .o16, none⟩ false e rest 2 (fun e => .sarEbCl e) h (.inl rfl) (fun h => nomatch h) rfl

theorem sarEvCl (o : OSize) (e : RM) : Statement (.sarEvCl o e) := fun h rest => by
  refine ok_length ?_ (lenE _ _ e)
  show groupD3 _ _ _ = _
  refine (takeModRM_e 7 e rest 1 _).trans ?_
  exact tailE_ok ⟨e.ovr, o, none⟩ true e rest 2 (fun e => .sarEvCl o e) h (.inl rfl) (fun _ => rfl) rfl

theorem clc : Statement (.clc) := fun _ _ => rfl

theorem stc : Statement (.stc) := fun _ _ => rfl

theorem cmc : Statement (.cmc) := fun _ _ => rfl

theorem cld : Statement (.cld) := fun _ _ => rfl

theorem std : Statement (.std) := fun _ _ => rfl

theorem cli : Statement (.cli) := fun _ _ => rfl

theorem sti : Statement (.sti) := fun _ _ => rfl

theorem lahf : Statement (.lahf) := fun _ _ => rfl

theorem sahf : Statement (.sahf) := fun _ _ => rfl

theorem pushf : Statement (.pushf) := fun _ _ => rfl

theorem popf : Statement (.popf) := fun _ _ => rfl

theorem jo (d : Byte) : Statement (.jo d) := fun _ rest =>
  rowIb_ok ⟨none, .o16, none⟩ false d rest 1 (fun d => .jo d) (fun h => nomatch h) rfl

theorem jno (d : Byte) : Statement (.jno d) := fun _ rest =>
  rowIb_ok ⟨none, .o16, none⟩ false d rest 1 (fun d => .jno d) (fun h => nomatch h) rfl

theorem jc (d : Byte) : Statement (.jc d) := fun _ rest =>
  rowIb_ok ⟨none, .o16, none⟩ false d rest 1 (fun d => .jc d) (fun h => nomatch h) rfl

theorem jnc (d : Byte) : Statement (.jnc d) := fun _ rest =>
  rowIb_ok ⟨none, .o16, none⟩ false d rest 1 (fun d => .jnc d) (fun h => nomatch h) rfl

theorem jz (d : Byte) : Statement (.jz d) := fun _ rest =>
  rowIb_ok ⟨none, .o16, none⟩ false d rest 1 (fun d => .jz d) (fun h => nomatch h) rfl

theorem jnz (d : Byte) : Statement (.jnz d) := fun _ rest =>
  rowIb_ok ⟨none, .o16, none⟩ false d rest 1 (fun d => .jnz d) (fun h => nomatch h) rfl

theorem jbe (d : Byte) : Statement (.jbe d) := fun _ rest =>
  rowIb_ok ⟨none, .o16, none⟩ false d rest 1 (fun d => .jbe d) (fun h => nomatch h) rfl

theorem ja (d : Byte) : Statement (.ja d) := fun _ rest =>
  rowIb_ok ⟨none, .o16, none⟩ false d rest 1 (fun d => .ja d) (fun h => nomatch h) rfl

theorem js (d : Byte) : Statement (.js d) := fun _ rest =>
  rowIb_ok ⟨none, .o16, none⟩ false d rest 1 (fun d => .js d) (fun h => nomatch h) rfl

theorem jns (d : Byte) : Statement (.jns d) := fun _ rest =>
  rowIb_ok ⟨none, .o16, none⟩ false d rest 1 (fun d => .jns d) (fun h => nomatch h) rfl

theorem jpe (d : Byte) : Statement (.jpe d) := fun _ rest =>
  rowIb_ok ⟨none, .o16, none⟩ false d rest 1 (fun d => .jpe d) (fun h => nomatch h) rfl

theorem jpo (d : Byte) : Statement (.jpo d) := fun _ rest =>
  rowIb_ok ⟨none, .o16, none⟩ false d rest 1 (fun d => .jpo d) (fun h => nomatch h) rfl

theorem jl (d : Byte) : Statement (.jl d) := fun _ rest =>
  rowIb_ok ⟨none, .o16, none⟩ false d rest 1 (fun d => .jl d) (fun h => nomatch h) rfl

theorem jge (d : Byte) : Statement (.jge d) := fun _ rest =>
  rowIb_ok ⟨none, .o16, none⟩ false d rest 1 (fun d => .jge d) (fun h => nomatch h) rfl

theorem jle (d : Byte) : Statement (.jle d) := fun _ rest =>
  rowIb_ok ⟨none, .o16, none⟩ false d rest 1 (fun d => .jle d) (fun h => nomatch h) rfl

theorem jg (d : Byte) : Statement (.jg d) := fun _ rest =>
  rowIb_ok ⟨none, .o16, none⟩ false d rest 1 (fun d => .jg d) (fun h => nomatch h) rfl

theorem loopne (d : Byte) : Statement (.loopne d) := fun _ rest =>
  rowIb_ok ⟨none, .o16, none⟩ false d rest 1 (fun d => .loopne d) (fun h => nomatch h) rfl

theorem loope (d : Byte) : Statement (.loope d) := fun _ rest =>
  rowIb_ok ⟨none, .o16, none⟩ false d rest 1 (fun d => .loope d) (fun h => nomatch h) rfl

theorem loop (d : Byte) : Statement (.loop d) := fun _ rest =>
  rowIb_ok ⟨none, .o16, none⟩ false d rest 1 (fun d => .loop d) (fun h => nomatch h) rfl

theorem jcxz (d : Byte) : Statement (.jcxz d) := fun _ rest =>
  rowIb_ok ⟨none, .o16, none⟩ false d rest 1 (fun d => .jcxz d) (fun h => nomatch h) rfl

theorem jmpRel16 (d : Word) : Statement (.jmpRel16 d) := fun _ rest =>
  ok_length (rowIw_ok ⟨none, .o16, none⟩ false d rest 1 (fun d => .jmpRel16 d) (fun h => nomatch h) rfl) rfl

theorem jmpRel8 (d : Byte) : Statement (.jmpRel8 d) := fun _ rest =>
  rowIb_ok ⟨none, .o16, none⟩ false d rest 1 (fun d => .jmpRel8 d) (fun h => nomatch h) rfl

theorem jmpEv (e : RM) : Statement (.jmpEv e) := fun h rest => by
  refine ok_length ?_ (lenE _ _ e)
  show groupFF _ _ _ = _
  refine (takeModRM_e 4 e rest 1 _).trans ?_
  exact tailE_ok ⟨e.ovr, .o16, none⟩ false e rest 2 (fun e => .jmpEv e) h (.inl rfl) (fun h => nomatch h) rfl

theorem jmpFar (sel off : Word) : Statement (.jmpFar sel off) := fun _ rest =>
  assoc (ok_length (rowFar_ok ⟨none, .o16, none⟩ off sel rest 1 (fun sel off => .jmpFar sel off) rfl rfl) rfl)

theorem jmpMp (m : MemRef) : Statement (.jmpMp m) := fun h rest => by
  refine ok_length ?_ (lenM _ _ m.form)
  show groupFF _ _ _ = _
  refine (takeModRM_m 5 m.form rest 1 _).trans ?_
  exact tailM_ok ⟨m.ovr, .o16, none⟩ false m rest 2 (fun m => .jmpMp m) h rfl (fun h => nomatch h) rfl

theorem callRel16 (d : Word) : Statement (.callRel16 d) := fun _ rest =>
  ok_length (rowIw_ok ⟨none, .o16, none⟩ false d rest 1 (fun d => .callRel16 d) (fun h => nomatch h) rfl) rfl

theorem callEv (e : RM) : Statement (.callEv e) := fun h rest => by
  refine ok_length ?_ (lenE _ _ e)
  show groupFF _ _ _ = _
  refine (takeModRM_e 2 e rest 1 _).trans ?_
  exact tailE_ok ⟨e.ovr, .o16, none⟩ false e rest 2 (fun e => .callEv e) h (.inl rfl) (fun h => nomatch h) rfl

theorem callFar (sel off : Word) : Statement (.callFar sel off) := fun _ rest =>
  assoc (ok_length (rowFar_ok ⟨none, .o16, none⟩ off sel rest 1 (fun sel off => .callFar sel off) rfl rfl) rfl)

theorem callMp (m : MemRef) : Statement (.callMp m) := fun h rest => by
  refine ok_length ?_ (lenM _ _ m.form)
  show groupFF _ _ _ = _
  refine (takeModRM_m 3 m.form rest 1 _).trans ?_
  exact tailM_ok ⟨m.ovr, .o16, none⟩ false m rest 2 (fun m => .callMp m) h rfl (fun h => nomatch h) rfl

theorem ret : Statement (.ret) := fun _ _ => rfl

theorem retIw (n : Word) : Statement (.retIw n) := fun _ rest =>
  ok_length (rowIw_ok ⟨none, .o16, none⟩ false n rest 1 (fun n => .retIw n) (fun h => nomatch h) rfl) rfl

theorem retf : Statement (.retf) := fun _ _ => rfl

theorem retfIw (n : Word) : Statement (.retfIw n) := fun _ rest =>
  ok_length (rowIw_ok ⟨none, .o16, none⟩ false n rest 1 (fun n => .retfIw n) (fun h => nomatch h) rfl) rfl

theorem intIb (n : Byte) : Statement (.intIb n) := fun _ rest =>
  rowIb_ok ⟨none, .o16, none⟩ false n rest 1 (fun n => .intIb n) (fun h => nomatch h) rfl

theorem int3 : Statement (.int3) := fun _ _ => rfl

theorem into : Statement (.into) := fun _ _ => rfl

theorem iret : Statement (.iret) := fun _ _ => rfl

theorem hlt : Statement (.hlt) := fun _ _ => rfl

theorem movsb (ovr : Option SReg) : Statement (.movsb ovr) := fun _ _ => rfl

theorem repMovsb (ovr : Option SReg) : Statement (.repMovsb ovr) := fun _ _ => rfl

theorem movsw (ovr : Option SReg) : Statement (.movsw ovr) := fun _ _ => rfl

theorem repMovsw (ovr : Option SReg) : Statement (.repMovsw ovr) := fun _ _ => rfl

theorem movsd (ovr : Option SReg) : Statement (.movsd ovr) := fun _ _ => rfl

theorem repMovsd (ovr : Option SReg) : Statement (.repMovsd ovr) := fun _ _ => rfl

theorem cmpsb (ovr : Option SReg) : Statement (.cmpsb ovr) := fun _ _ => rfl

theorem repeCmpsb (ovr : Option SReg) : Statement (.repeCmpsb ovr) := fun _ _ => rfl

theorem repneCmpsb (ovr : Option SReg) : Statement (.repneCmpsb ovr) := fun _ _ => rfl

theorem cmpsw (ovr : Option SReg) : Statement (.cmpsw ovr) := fun _ _ => rfl

theorem repeCmpsw (ovr : Option SReg) : Statement (.repeCmpsw ovr) := fun _ _ => rfl

theorem repneCmpsw (ovr : Option SReg) : Statement (.repneCmpsw ovr) := fun _ _ => rfl

theorem cmpsd (ovr : Option SReg) : Statement (.cmpsd ovr) := fun _ _ => rfl

theorem repeCmpsd (ovr : Option SReg) : Statement (.repeCmpsd ovr) := fun _ _ => rfl

theorem repneCmpsd (ovr : Option SReg) : Statement (.repneCmpsd ovr) := fun _ _ => rfl

theorem stosb : Statement (.stosb) := fun _ _ => rfl

theorem repStosb : Statement (.repStosb) := fun _ _ => rfl

theorem stosw : Statement (.stosw) := fun _ _ => rfl

theorem repStosw : Statement (.repStosw) := fun _ _ => rfl

theorem stosd : Statement (.stosd) := fun _ _ => rfl

theorem repStosd : Statement (.repStosd) := fun _ _ => rfl

theorem lodsb (ovr : Option SReg) : Statement (.lodsb ovr) := fun _ _ => rfl

theorem repLodsb (ovr : Option SReg) : Statement (.repLodsb ovr) := fun _ _ => rfl

theorem lodsw (ovr : Option SReg) : Statement (.lodsw ovr) := fun _ _ => rfl

theorem repLodsw (ovr : Option SReg) : Statement (.repLodsw ovr) := fun _ _ => rfl

theorem lodsd (ovr : Option SReg) : Statement (.lodsd ovr) := fun _ _ => rfl

theorem repLodsd (ovr : Option SReg) : Statement (.repLodsd ovr) := fun _ _ => rfl

theorem scasb : Statement (.scasb) := fun _ _ => rfl

theorem repeScasb : Statement (.repeScasb) := fun _ _ => rfl

theorem repneScasb : Statement (.repneScasb) := fun _ _ => rfl

theorem scasw : Statement (.scasw) := fun _ _ => rfl

theorem repeScasw : Statement (.repeScasw) := fun _ _ => rfl

theorem repneScasw : Statement (.repneScasw) := fun _ _ => rfl

theorem scasd : Statement (.scasd) := fun _ _ => rfl

theorem repeScasd : Statement (.repeScasd) := fun _ _ => rfl

theorem repneScasd : Statement (.repneScasd) := fun _ _ => rfl

theorem movEbGb (e : RM) (g : Reg) : Statement (.movEbGb e g) := fun h rest =>
  ok_length
    (rowEG_ok ⟨e.ovr, .o16, none⟩ false e g rest 1 (fun e g => .movEbGb e g) h (.inl rfl) (fun h => nomatch h) rfl)
    (lenE _ _ e)

theorem movEvGv (o : OSize) (e : RM) (g : Reg) : Statement (.movEvGv o e g) := fun h rest =>
  ok_length
    (rowEG_ok ⟨e.ovr, o, none⟩ true e g rest 1 (fun e g => .movEvGv o e g) h (.inl rfl) (fun _ => rfl) rfl)
    (lenE _ _ e)

theorem movGbEb (g : Reg) (e : RM) : Statement (.movGbEb g e) := fun h rest =>
  ok_length
    (rowEG_ok ⟨e.ovr, .o16, none⟩ false e g rest 1 (fun e g => .movGbEb g e) h (.inl rfl) (fun h => nomatch h) rfl)
    (lenE _ _ e)

theorem movGvEv (o : OSize) (g : Reg) (e : RM) : Statement (.movGvEv o g e) := fun h rest =>
  ok_length
    (rowEG_ok ⟨e.ovr, o, none⟩ true e g rest 1 (fun e g => .movGvEv o g e) h (.inl rfl) (fun _ => rfl) rfl)
    (lenE _ _ e)

theorem movRegIb (r : Reg) (imm : Byte) : Statement (.movRegIb r imm) := fun _ rest => by
  cases r <;> exact rowIb_ok ⟨none, .o16, none⟩ false imm rest 1 _ (fun h => nomatch h) rfl

theorem movRegIv (o : OSize) (r : Reg) (imm : Dword) : Statement (.movRegIv o r imm) := fun h rest => by
  cases r <;>
    exact ok_length (rowIv_ok ⟨none, o, none⟩ imm rest 1 _ h rfl) (lenV _ o imm)

theorem movEbIb (e : RM) (imm : Byte) : Statement (.movEbIb e imm) := fun h rest => by
  refine assoc (y := [imm]) (ok_length ?_ (lenEI _ _ e imm))
  show groupC6 _ _ _ = _
  refine (takeModRM_e 0 e (imm :: rest) 1 _).trans ?_
  exact tailEIb_ok ⟨e.ovr, .o16, none⟩ false e imm rest 2 (fun e imm => .movEbIb e imm) h (.inl rfl) (fun h => nomatch h) rfl

theorem movEvIv (o : OSize) (e : RM) (imm : Dword) : Statement (.movEvIv o e imm) := fun h rest => by
  refine assoc (ok_length ?_ (lenEV _ _ e o imm))
  show groupC7 _ _ _ = _
  refine (takeModRM_e 0 e (ivBytes o imm ++ rest) 1 _).trans ?_
  exact tailEIv_ok ⟨e.ovr, o, none⟩ e imm rest 2 (fun e imm => .movEvIv o e imm) (wf_left h) (wf_right h) (.inl rfl) rfl

theorem movAlMoffs (ovr : Option SReg) (off : Word) : Statement (.movAlMoffs ovr off) := fun _ rest =>
  ok_length (rowIw_ok ⟨ovr, .o16, none⟩ false off rest 1 (fun off => .movAlMoffs ovr off) (fun h => nomatch h) rfl) rfl

theorem movEaxMoffs (o : OSize) (ovr : Option SReg) (off : Word) : Statement (.movEaxMoffs o ovr off) := fun _ rest =>
  ok_length (rowIw_ok ⟨ovr, o, none⟩ true off rest 1 (fun off => .movEaxMoffs o ovr off) (fun _ => rfl) rfl) rfl

theorem movMoffsAl (ovr : Option SReg) (off : Word) : Statement (.movMoffsAl ovr off) := fun _ rest =>
  ok_length (rowIw_ok ⟨ovr, .o16, none⟩ false off rest 1 (fun off => .movMoffsAl ovr off) (fun h => nomatch h) rfl) rfl

theorem movMoffsEax (o : OSize) (ovr : Option SReg) (off : Word) : Statement (.movMoffsEax o ovr off) := fun _ rest =>
  ok_length (rowIw_ok ⟨ovr, o, none⟩ true off rest 1 (fun off => .movMoffsEax o ovr off) (fun _ => rfl) rfl) rfl

theorem movEwSw (e : RM) (r : SReg) : Statement (.movEwSw e r) := fun h rest =>
  ok_length (rowFromSreg_ok ⟨e.ovr, .o16, none⟩ e r rest 1 h (.inl rfl) rfl rfl) (lenE _ _ e)

theorem movSwEw (r : SReg) (e : RM) : Statement (.movSwEw r e) := fun h rest =>
  ok_length (rowToSreg_ok ⟨e.ovr, .o16, none⟩ e r rest 1 (wf_left h) (by simpa using wf_right h) (.inl rfl) rfl rfl)
    (lenE _ _ e)

theorem xchgEbGb (e : RM) (g : Reg) : Statement (.xchgEbGb e g) := fun h rest =>
  ok_length
    (rowEG_ok ⟨e.ovr, .o16, none⟩ false e g rest 1 (fun e g => .xchgEbGb e g) h (.inl rfl) (fun h => nomatch h) rfl)
    (lenE _ _ e)

theorem xchgEvGv (o : OSize) (e : RM) (g : Reg) : Statement (.xchgEvGv o e g) := fun h rest =>
  ok_length
    (rowEG_ok ⟨e.ovr, o, none⟩ true e g rest 1 (fun e g => .xchgEvGv o e g) h (.inl rfl) (fun _ => rfl) rfl)
    (lenE _ _ e)

theorem xchgEaxCx (o : OSize) : Statement (.xchgEaxCx o) := fun _ _ => by
  cases o <;> rfl

theorem xchgEaxDx (o : OSize) : Statement (.xchgEaxDx o) := fun _ _ => by
  cases o <;> rfl

theorem xchgEaxBx (o : OSize) : Statement (.xchgEaxBx o) := fun _ _ => by
  cases o <;> rfl

theorem xchgEaxSp (o : OSize) : Statement (.xchgEaxSp o) := fun _ _ => by
  cases o <;> rfl

theorem xchgEaxBp (o : OSize) : Statement (.xchgEaxBp o) := fun _ _ => by
  cases o <;> rfl

theorem xchgEaxSi (o : OSize) : Statement (.xchgEaxSi o) := fun _ _ => by
  cases o <;> rfl

theorem xchgEaxDi (o : OSize) : Statement (.xchgEaxDi o) := fun _ _ => by
  cases o <;> rfl

theorem nop (o : OSize) : Statement (.nop o) := fun _ _ => by
  cases o <;> rfl

theorem leaGvM (o : OSize) (g : Reg) (m : MemRef) : Statement (.leaGvM o g m) := fun h rest =>
  ok_length (rowGM_ok ⟨m.ovr, o, none⟩ m g rest 1 (fun g m => .leaGvM o g m) h rfl rfl) (lenM _ _ m.form)

theorem lesGvMp (o : OSize) (g : Reg) (m : MemRef) : Statement (.lesGvMp o g m) := fun h rest =>
  ok_length (rowGM_ok ⟨m.ovr, o, none⟩ m g rest 1 (fun g m => .lesGvMp o g m) h rfl rfl) (lenM _ _ m.form)

theorem ldsGvMp (o : OSize) (g : Reg) (m : MemRef) : Statement (.ldsGvMp o g m) := fun h rest =>
  ok_length (rowGM_ok ⟨m.ovr, o, none⟩ m g rest 1 (fun g m => .ldsGvMp o g m) h rfl rfl) (lenM _ _ m.form)

theorem lssGvMp (o : OSize) (g : Reg) (m : MemRef) : Statement (.lssGvMp o g m) := fun h rest =>
  ok_length (rowGM_ok ⟨m.ovr, o, none⟩ m g rest 2 (fun g m => .lssGvMp o g m) h rfl rfl) (lenM2 _ _ _ m.form)

theorem lfsGvMp (o : OSize) (g : Reg) (m : MemRef) : Statement (.lfsGvMp o g m) := fun h rest =>
  ok_length (rowGM_ok ⟨m.ovr, o, none⟩ m g rest 2 (fun g m => .lfsGvMp o g m) h rfl rfl) (lenM2 _ _ _ m.form)

theorem lgsGvMp (o : OSize) (g : Reg) (m : MemRef) : Statement (.lgsGvMp o g m) := fun h rest =>
  ok_length (rowGM_ok ⟨m.ovr, o, none⟩ m g rest 2 (fun g m => .lgsGvMp o g m) h rfl rfl) (lenM2 _ _ _ m.form)

theorem xlat (ovr : Option SReg) : Statement (.xlat ovr) := fun _ _ => rfl

theorem pushReg (r : Reg) : Statement (.pushReg r) := fun _ _ => by
  cases r <;> exact rowNone_ok ⟨none, .o16, none⟩ false 1 _ (fun h => nomatch h) rfl

theorem pushEs : Statement (.pushEs) := fun _ _ => rfl

theorem pushCs : Statement (.pushCs) := fun _ _ => rfl

theorem pushSs : Statement (.pushSs) := fun _ _ => rfl

theorem pushDs : Statement (.pushDs) := fun _ _ => rfl

theorem pushEv (e : RM) : Statement (.pushEv e) := fun h rest => by
  refine ok_length ?_ (lenE _ _ e)
  show groupFF _ _ _ = _
  refine (takeModRM_e 6 e rest 1 _).trans ?_
  exact tailE_ok ⟨e.ovr, .o16, none⟩ false e rest 2 (fun e => .pushEv e) h (.inl rfl) (fun h => nomatch h) rfl

theorem popReg (r : Reg) : Statement (.popReg r) := fun _ _ => by
  cases r <;> exact rowNone_ok ⟨none, .o16, none⟩ false 1 _ (fun h => nomatch h) rfl

theorem popEs : Statement (.popEs) := fun _ _ => rfl

theorem popSs : Statement (.popSs) := fun _ _ => rfl

theorem popDs : Statement (.popDs) := fun _ _ => rfl

theorem popEv (e : RM) : Statement (.popEv e) := fun h rest => by
  refine ok_length ?_ (lenE _ _ e)
  show group8F _ _ _ = _
  refine (takeModRM_e 0 e rest 1 _).trans ?_
  exact tailE_ok ⟨e.ovr, .o16, none⟩ false e rest 2 (fun e => .popEv e) h (.inl rfl) (fun h => nomatch h) rfl

theorem segEs : Statement (.segEs) := fun _ _ => rfl

theorem segCs : Statement (.segCs) := fun _ _ => rfl

theorem segSs : Statement (.segSs) := fun _ _ => rfl

theorem segDs : Statement (.segDs) := fun _ _ => rfl

theorem segFs : Statement (.segFs) := fun _ _ => rfl

theorem segGs : Statement (.segGs) := fun _ _ => rfl

theorem opSize : Statement (.opSize) := fun _ _ => rfl

theorem repE : Statement (.repE) := fun _ _ => rfl

theorem repNe : Statement (.repNe) := fun _ _ => rfl

end Sys2Proof.Laws.EncodeDecode
end

