-- ==== Sys2Proof/Laws/Step.lean ====
section
/-! SUPPORT. What the decoder reads and what one step does with it: every unit it accepts lies in the bytes it was given,
a prefix unit is one byte, and a step runs the instruction that the bytes at CS:IP decode to. -/

namespace Sys2Proof

/-- Read from `bs`, `n` bytes behind: an instruction ends inside the bytes, and is no prefix. -/
def Fine (bs : List Byte) (n : Nat) (d : Decoded) : Prop :=
  ∀ i m, d = .ok i m → n ≤ m ∧ m ≤ n + bs.length ∧ i.asPrefix = none

theorem fine_stop {bs : List Byte} {n m : Nat} {d : Decoded} (h : d = .unhandled m ∨ d = .malformed m ∨ d = .short m) :
    Fine bs n d := by
  intro i k hd
  rcases h with h | h | h <;> rw [h] at hd <;> exact absurd hd (by simp)

theorem fine_ok {bs : List Byte} {n : Nat} {i : Instr} (h : i.asPrefix = none) : Fine bs n (.ok i n) := by
  intro j m hd
  cases hd
  exact ⟨Nat.le_refl _, Nat.le_add_right _ _, h⟩

theorem fine_takeByte {bs : List Byte} {n : Nat} {k : Byte → List Byte → Nat → Decoded}
    (h : ∀ b bs n, Fine bs n (k b bs n)) : Fine bs n (takeByte bs n k) := by
  cases bs with
  | nil => exact fine_stop (.inr (.inr rfl))
  | cons b bs =>
    intro i m hd
    have := h b bs (n + 1) i m hd
    refine ⟨by omega, ?_, this.2.2⟩
    rw [List.length_cons]; omega

theorem fine_takeWord {bs : List Byte} {n : Nat} {k : Word → List Byte → Nat → Decoded}
    (h : ∀ b bs n, Fine bs n (k b bs n)) : Fine bs n (takeWord bs n k) :=
  fine_takeByte fun _ _ _ => fine_takeByte fun _ _ _ => h _ _ _

theorem fine_takeIv {o : OSize} {bs : List Byte} {n : Nat} {k : Dword → List Byte → Nat → Decoded}
    (h : ∀ b bs n, Fine bs n (k b bs n)) : Fine bs n (takeIv o bs n k) := by
  cases o with
  | o16 => exact fine_takeWord (k := fun v bs n => k (v.setWidth 32) bs n) fun _ _ _ => h _ _ _
  | o32 =>
    exact fine_takeWord (k := fun lo bs n => takeWord bs n fun hi bs n => k (hi ++ lo) bs n) fun _ _ _ =>
      fine_takeWord fun _ _ _ => h _ _ _

theorem fine_takeModRM {bs : List Byte} {n : Nat} {k : BitVec 2 → BitVec 3 → BitVec 3 → List Byte → Nat → Decoded}
    (h : ∀ a b c bs n, Fine bs n (k a b c bs n)) : Fine bs n (takeModRM bs n k) :=
  fine_takeByte fun _ _ _ => h _ _ _ _ _

theorem fine_takeForm {mod : BitVec 2} {rm : BitVec 3} {bs : List Byte} {n : Nat} {k : MemForm → List Byte → Nat → Decoded}
    (h : ∀ b bs n, Fine bs n (k b bs n)) : Fine bs n (takeForm mod rm bs n k) := by
  unfold takeForm
  split
  · split
    · exact fine_takeWord fun _ _ _ => h _ _ _
    · exact h _ _ _
  · exact fine_takeByte fun _ _ _ => h _ _ _
  · exact fine_takeWord fun _ _ _ => h _ _ _

theorem fine_takeE {p : Prefixes} {mod : BitVec 2} {rm : BitVec 3} {bs : List Byte} {n : Nat}
    {k : RM → List Byte → Nat → Decoded} (h : ∀ b bs n, Fine bs n (k b bs n)) : Fine bs n (takeE p mod rm bs n k) := by
  unfold takeE
  split
  · exact h _ _ _
  · exact fine_takeForm fun _ _ _ => h _ _ _

theorem fine_checkRow {p : Prefixes} {v : Bool} {bs : List Byte} {n : Nat} {d : Decoded} (h : Fine bs n d) :
    Fine bs n (checkRow p v n d) := by
  unfold checkRow
  split
  · exact fine_stop (.inl rfl)
  · split
    · exact fine_stop (.inl rfl)
    · exact h

theorem fine_rowNone {p : Prefixes} {v : Bool} {bs : List Byte} {n : Nat} {i : Instr} (h : i.asPrefix = none) :
    Fine bs n (rowNone p v n i) := fine_checkRow (fine_ok h)

theorem fine_rowIb {p : Prefixes} {v : Bool} {bs : List Byte} {n : Nat} {mk : Byte → Instr}
    (h : ∀ b, (mk b).asPrefix = none) : Fine bs n (rowIb p v bs n mk) :=
  fine_checkRow (fine_takeByte fun _ _ _ => fine_ok (h _))

theorem fine_rowIw {p : Prefixes} {v : Bool} {bs : List Byte} {n : Nat} {mk : Word → Instr}
    (h : ∀ b, (mk b).asPrefix = none) : Fine bs n (rowIw p v bs n mk) :=
  fine_checkRow (fine_takeWord fun _ _ _ => fine_ok (h _))

theorem fine_rowIv {p : Prefixes} {bs : List Byte} {n : Nat} {mk : Dword → Instr}
    (h : ∀ b, (mk b).asPrefix = none) : Fine bs n (rowIv p bs n mk) :=
  fine_checkRow (fine_takeIv fun _ _ _ => fine_ok (h _))

theorem fine_rowFar {p : Prefixes} {bs : List Byte} {n : Nat} {mk : Word → Word → Instr}
    (h : ∀ a b, (mk a b).asPrefix = none) : Fine bs n (rowFar p bs n mk) :=
  fine_checkRow (fine_takeWord fun _ _ _ => fine_takeWord fun _ _ _ => fine_ok (h _ _))

theorem fine_tailE {p : Prefixes} {v : Bool} {mod : BitVec 2} {rm : BitVec 3} {bs : List Byte} {n : Nat} {mk : RM → Instr}
    (h : ∀ e, (mk e).asPrefix = none) : Fine bs n (tailE p v mod rm bs n mk) :=
  fine_checkRow (fine_takeE fun _ _ _ => fine_ok (h _))

theorem fine_tailEIb {p : Prefixes} {v : Bool} {mod : BitVec 2} {rm : BitVec 3} {bs : List Byte} {n : Nat}
    {mk : RM → Byte → Instr} (h : ∀ e b, (mk e b).asPrefix = none) : Fine bs n (tailEIb p v mod rm bs n mk) :=
  fine_checkRow (fine_takeE fun _ _ _ => fine_takeByte fun _ _ _ => fine_ok (h _ _))

theorem fine_tailEIv {p : Prefixes} {mod : BitVec 2} {rm : BitVec 3} {bs : List Byte} {n : Nat}
    {mk : RM → Dword → Instr} (h : ∀ e b, (mk e b).asPrefix = none) : Fine bs n (tailEIv p mod rm bs n mk) :=
  fine_checkRow (fine_takeE fun _ _ _ => fine_takeIv fun _ _ _ => fine_ok (h _ _))

theorem fine_tailM {p : Prefixes} {v : Bool} {mod : BitVec 2} {rm : BitVec 3} {bs : List Byte} {n : Nat}
    {mk : MemRef → Instr} (h : ∀ e, (mk e).asPrefix = none) : Fine bs n (tailM p v mod rm bs n mk) := by
  refine fine_checkRow ?_
  split
  · exact fine_stop (.inr (.inl rfl))
  · exact fine_takeForm fun _ _ _ => fine_ok (h _)

theorem fine_rowEG {p : Prefixes} {v : Bool} {bs : List Byte} {n : Nat} {mk : RM → Reg → Instr}
    (h : ∀ e g, (mk e g).asPrefix = none) : Fine bs n (rowEG p v bs n mk) :=
  fine_takeModRM fun _ _ _ _ _ => fine_tailE fun _ => h _ _

theorem fine_rowGM {p : Prefixes} {bs : List Byte} {n : Nat} {mk : Reg → MemRef → Instr}
    (h : ∀ e g, (mk e g).asPrefix = none) : Fine bs n (rowGM p bs n mk) :=
  fine_takeModRM fun _ _ _ _ _ => fine_tailM fun _ => h _ _

theorem fine_rowFromSreg {p : Prefixes} {bs : List Byte} {n : Nat} : Fine bs n (rowFromSreg p bs n) := by
  refine fine_takeModRM fun _ _ _ _ _ => fine_checkRow ?_
  split
  · exact fine_stop (.inr (.inl rfl))
  · exact fine_takeE fun _ _ _ => fine_ok rfl

theorem fine_rowToSreg {p : Prefixes} {bs : List Byte} {n : Nat} : Fine bs n (rowToSreg p bs n) := by
  refine fine_takeModRM fun _ _ _ _ _ => fine_checkRow ?_
  split
  · exact fine_stop (.inr (.inl rfl))
  · exact fine_stop (.inr (.inl rfl))
  · exact fine_takeE fun _ _ _ => fine_ok rfl

theorem fine_rowStringB {p : Prefixes} {bs : List Byte} {n : Nat} {a b : Instr} {c : Option Instr}
    (ha : a.asPrefix = none) (hb : b.asPrefix = none) (hc : ∀ i, c = some i → i.asPrefix = none) :
    Fine bs n (rowStringB p n a b c) := by
  unfold rowStringB
  split
  · exact fine_stop (.inl rfl)
  · split
    · exact fine_ok ha
    · exact fine_ok hb
    · cases c with
      | none => exact fine_stop (.inl rfl)
      | some i => exact fine_ok (hc i rfl)

theorem fine_rowStringV {p : Prefixes} {bs : List Byte} {n : Nat} {a b : Instr} {c : Option Instr} {d e : Instr}
    {f : Option Instr} (ha : a.asPrefix = none) (hb : b.asPrefix = none) (hc : ∀ i, c = some i → i.asPrefix = none)
    (hd : d.asPrefix = none) (he : e.asPrefix = none) (hf : ∀ i, f = some i → i.asPrefix = none) :
    Fine bs n (rowStringV p n a b c d e f) := by
  unfold rowStringV
  split
  · exact fine_rowStringB ha hb hc
  · exact fine_rowStringB hd he hf

theorem none_some {i : Instr} (h : (none : Option Instr) = some i) : i.asPrefix = none := nomatch h

/-! ## The groups and the opcode map -/

theorem fine_group80 (p : Prefixes) (bs : List Byte) (n : Nat) : Fine bs n (group80 p bs n) :=
  fine_takeModRM fun _ _ _ _ _ => by split <;> exact fine_tailEIb fun _ _ => rfl

theorem fine_group81 (p : Prefixes) (bs : List Byte) (n : Nat) : Fine bs n (group81 p bs n) :=
  fine_takeModRM fun _ _ _ _ _ => by split <;> exact fine_tailEIv fun _ _ => rfl

theorem fine_group83 (p : Prefixes) (bs : List Byte) (n : Nat) : Fine bs n (group83 p bs n) :=
  fine_takeModRM fun _ _ _ _ _ => by split <;> exact fine_tailEIb fun _ _ => rfl

theorem fine_groupC0 (p : Prefixes) (bs : List Byte) (n : Nat) : Fine bs n (groupC0 p bs n) :=
  fine_takeModRM fun _ _ _ _ _ => by
    split <;> first | exact fine_tailEIb fun _ _ => rfl | exact fine_stop (.inl rfl)

theorem fine_groupC1 (p : Prefixes) (bs : List Byte) (n : Nat) : Fine bs n (groupC1 p bs n) :=
  fine_takeModRM fun _ _ _ _ _ => by
    split <;> first | exact fine_tailEIb fun _ _ => rfl | exact fine_stop (.inl rfl)

theorem fine_groupD0 (p : Prefixes) (bs : List Byte) (n : Nat) : Fine bs n (groupD0 p bs n) :=
  fine_takeModRM fun _ _ _ _ _ => by
    split <;> first | exact fine_tailE fun _ => rfl | exact fine_stop (.inl rfl)

theorem fine_groupD1 (p : Prefixes) (bs : List Byte) (n : Nat) : Fine bs n (groupD1 p bs n) :=
  fine_takeModRM fun _ _ _ _ _ => by
    split <;> first | exact fine_tailE fun _ => rfl | exact fine_stop (.inl rfl)

theorem fine_groupD2 (p : Prefixes) (bs : List Byte) (n : Nat) : Fine bs n (groupD2 p bs n) :=
  fine_takeModRM fun _ _ _ _ _ => by
    split <;> first | exact fine_tailE fun _ => rfl | exact fine_stop (.inl rfl)

theorem fine_groupD3 (p : Prefixes) (bs : List Byte) (n : Nat) : Fine bs n (groupD3 p bs n) :=
  fine_takeModRM fun _ _ _ _ _ => by
    split <;> first | exact fine_tailE fun _ => rfl | exact fine_stop (.inl rfl)

theorem fine_groupF6 (p : Prefixes) (bs : List Byte) (n : Nat) : Fine bs n (groupF6 p bs n) :=
  fine_takeModRM fun _ _ _ _ _ => by
    split <;> first | exact fine_tailE fun _ => rfl | exact fine_tailEIb fun _ _ => rfl | exact fine_stop (.inl rfl)

theorem fine_groupF7 (p : Prefixes) (bs : List Byte) (n : Nat) : Fine bs n (groupF7 p bs n) :=
  fine_takeModRM fun _ _ _ _ _ => by
    split <;> first | exact fine_tailE fun _ => rfl | exact fine_tailEIv fun _ _ => rfl | exact fine_stop (.inl rfl)

theorem fine_groupFE (p : Prefixes) (bs : List Byte) (n : Nat) : Fine bs n (groupFE p bs n) :=
  fine_takeModRM fun _ _ _ _ _ => by
    split <;> first | exact fine_tailE fun _ => rfl | exact fine_stop (.inl rfl)

theorem fine_groupFF (p : Prefixes) (bs : List Byte) (n : Nat) : Fine bs n (groupFF p bs n) :=
  fine_takeModRM fun _ _ _ _ _ => by
    split <;> first | exact fine_tailE fun _ => rfl | exact fine_tailM fun _ => rfl | exact fine_stop (.inl rfl)

theorem fine_group8F (p : Prefixes) (bs : List Byte) (n : Nat) : Fine bs n (group8F p bs n) :=
  fine_takeModRM fun _ _ _ _ _ => by
    split <;> first | exact fine_tailE fun _ => rfl | exact fine_stop (.inl rfl)

theorem fine_groupC6 (p : Prefixes) (bs : List Byte) (n : Nat) : Fine bs n (groupC6 p bs n) :=
  fine_takeModRM fun _ _ _ _ _ => by
    split <;> first | exact fine_tailEIb fun _ _ => rfl | exact fine_stop (.inl rfl)

theorem fine_groupC7 (p : Prefixes) (bs : List Byte) (n : Nat) : Fine bs n (groupC7 p bs n) :=
  fine_takeModRM fun _ _ _ _ _ => by
    split <;> first | exact fine_tailEIv fun _ _ => rfl | exact fine_stop (.inl rfl)

theorem fine_row0F (p : Prefixes) (bs : List Byte) (n : Nat) : Fine bs n (row0F p bs n) :=
  fine_takeByte fun _ _ _ => by
    split <;> first | exact fine_rowGM fun _ _ => rfl | exact fine_stop (.inl rfl)

/-- A first byte's row: an instruction inside the bytes, or one of the nine prefix bytes. -/
def FineRow (bs : List Byte) (n : Nat) (d : Decoded) : Prop := Fine bs n d ∨ ∃ i, d = .ok i n

theorem fine_opcodes0 (p : Prefixes) (bs : List Byte) (n lo : Nat) : FineRow bs n (opcodes0 p bs n lo) := by
  unfold opcodes0
  split <;> refine .inl ?_ <;>
    first
    | exact fine_rowEG fun _ _ => rfl
    | exact fine_rowIb fun _ => rfl
    | exact fine_rowIv fun _ => rfl
    | exact fine_rowNone rfl
    | exact fine_row0F p bs n
    | exact fine_stop (.inl rfl)

theorem fine_opcodes1 (p : Prefixes) (bs : List Byte) (n lo : Nat) : FineRow bs n (opcodes1 p bs n lo) := by
  unfold opcodes1
  split <;> refine .inl ?_ <;>
    first
    | exact fine_rowEG fun _ _ => rfl
    | exact fine_rowIb fun _ => rfl
    | exact fine_rowIv fun _ => rfl
    | exact fine_rowNone rfl
    | exact fine_stop (.inl rfl)

theorem fine_opcodes2 (p : Prefixes) (bs : List Byte) (n lo : Nat) : FineRow bs n (opcodes2 p bs n lo) := by
  unfold opcodes2
  split <;>
    first
    | exact .inr ⟨_, rfl⟩
    | (refine .inl ?_
       first
       | exact fine_rowEG fun _ _ => rfl
       | exact fine_rowIb fun _ => rfl
       | exact fine_rowIv fun _ => rfl
       | exact fine_stop (.inl rfl))

theorem fine_opcodes3 (p : Prefixes) (bs : List Byte) (n lo : Nat) : FineRow bs n (opcodes3 p bs n lo) := by
  unfold opcodes3
  split <;>
    first
    | exact .inr ⟨_, rfl⟩
    | (refine .inl ?_
       first
       | exact fine_rowEG fun _ _ => rfl
       | exact fine_rowIb fun _ => rfl
       | exact fine_rowIv fun _ => rfl
       | exact fine_stop (.inl rfl))

theorem fine_opcodes4 (p : Prefixes) (bs : List Byte) (n lo : Nat) : FineRow bs n (opcodes4 p bs n lo) := by
  unfold opcodes4
  split <;> refine .inl ?_ <;> first | exact fine_rowNone rfl | exact fine_stop (.inl rfl)

theorem fine_opcodes5 (p : Prefixes) (bs : List Byte) (n lo : Nat) : FineRow bs n (opcodes5 p bs n lo) := by
  unfold opcodes5
  split <;> refine .inl ?_ <;> first | exact fine_rowNone rfl | exact fine_stop (.inl rfl)

theorem fine_opcodes6 (p : Prefixes) (bs : List Byte) (n lo : Nat) : FineRow bs n (opcodes6 p bs n lo) := by
  unfold opcodes6
  split <;> first | exact .inr ⟨_, rfl⟩ | exact .inl (fine_stop (.inl rfl))

theorem fine_opcodes7 (p : Prefixes) (bs : List Byte) (n lo : Nat) : FineRow bs n (opcodes7 p bs n lo) := by
  unfold opcodes7
  split <;> refine .inl ?_ <;> first | exact fine_rowIb fun _ => rfl | exact fine_stop (.inl rfl)

theorem fine_opcodes8 (p : Prefixes) (bs : List Byte) (n lo : Nat) : FineRow bs n (opcodes8 p bs n lo) := by
  unfold opcodes8
  split <;> refine .inl ?_ <;>
    first
    | exact fine_group80 p bs n
    | exact fine_group81 p bs n
    | exact fine_group83 p bs n
    | exact fine_group8F p bs n
    | exact fine_rowFromSreg
    | exact fine_rowToSreg
    | exact fine_rowEG fun _ _ => rfl
    | exact fine_rowGM fun _ _ => rfl
    | exact fine_stop (.inl rfl)

theorem fine_opcodes9 (p : Prefixes) (bs : List Byte) (n lo : Nat) : FineRow bs n (opcodes9 p bs n lo) := by
  unfold opcodes9
  split <;> refine .inl ?_ <;>
    first
    | exact fine_rowNone rfl
    | exact fine_rowFar fun _ _ => rfl
    | exact fine_stop (.inl rfl)
    | (refine fine_rowNone ?_; cases p.osz <;> rfl)

theorem fine_opcodesA (p : Prefixes) (bs : List Byte) (n lo : Nat) : FineRow bs n (opcodesA p bs n lo) := by
  unfold opcodesA
  split <;> refine .inl ?_ <;>
    first
    | exact fine_rowIw fun _ => rfl
    | exact fine_rowIb fun _ => rfl
    | exact fine_rowIv fun _ => rfl
    | exact fine_rowStringB rfl rfl fun _ => none_some
    | exact fine_rowStringB rfl rfl fun _ h => by cases h; rfl
    | exact fine_rowStringV rfl rfl (fun _ => none_some) rfl rfl fun _ => none_some
    | exact fine_rowStringV rfl rfl (fun _ h => by cases h; rfl) rfl rfl fun _ h => by cases h; rfl
    | exact fine_stop (.inl rfl)

theorem fine_opcodesB (p : Prefixes) (bs : List Byte) (n lo : Nat) : FineRow bs n (opcodesB p bs n lo) := by
  unfold opcodesB
  split <;> refine .inl ?_ <;>
    first | exact fine_rowIb fun _ => rfl | exact fine_rowIv fun _ => rfl | exact fine_stop (.inl rfl)

theorem fine_opcodesC (p : Prefixes) (bs : List Byte) (n lo : Nat) : FineRow bs n (opcodesC p bs n lo) := by
  unfold opcodesC
  split <;> refine .inl ?_ <;>
    first
    | exact fine_groupC0 p bs n
    | exact fine_groupC1 p bs n
    | exact fine_groupC6 p bs n
    | exact fine_groupC7 p bs n
    | exact fine_rowIw fun _ => rfl
    | exact fine_rowIb fun _ => rfl
    | exact fine_rowNone rfl
    | exact fine_rowGM fun _ _ => rfl
    | exact fine_stop (.inl rfl)

theorem fine_opcodesD (p : Prefixes) (bs : List Byte) (n lo : Nat) : FineRow bs n (opcodesD p bs n lo) := by
  unfold opcodesD
  split <;> refine .inl ?_ <;>
    first
    | exact fine_groupD0 p bs n
    | exact fine_groupD1 p bs n
    | exact fine_groupD2 p bs n
    | exact fine_groupD3 p bs n
    | exact fine_rowNone rfl
    | exact fine_stop (.inl rfl)

theorem fine_opcodesE (p : Prefixes) (bs : List Byte) (n lo : Nat) : FineRow bs n (opcodesE p bs n lo) := by
  unfold opcodesE
  split <;> refine .inl ?_ <;>
    first
    | exact fine_rowIb fun _ => rfl
    | exact fine_rowIw fun _ => rfl
    | exact fine_rowFar fun _ _ => rfl
    | exact fine_stop (.inl rfl)

theorem fine_opcodesF (p : Prefixes) (bs : List Byte) (n lo : Nat) : FineRow bs n (opcodesF p bs n lo) := by
  unfold opcodesF
  split <;>
    first
    | exact .inr ⟨_, rfl⟩
    | (refine .inl ?_
       first
       | exact fine_groupF6 p bs n
       | exact fine_groupF7 p bs n
       | exact fine_groupFE p bs n
       | exact fine_groupFF p bs n
       | exact fine_rowNone rfl
       | exact fine_stop (.inl rfl))

theorem fine_decodeOpcode (p : Prefixes) (op : Byte) (bs : List Byte) (n : Nat) :
    FineRow bs n (decodeOpcode p op bs n) := by
  unfold decodeOpcode
  dsimp only
  split
  · exact fine_opcodes0 p bs n _
  · exact fine_opcodes1 p bs n _
  · exact fine_opcodes2 p bs n _
  · exact fine_opcodes3 p bs n _
  · exact fine_opcodes4 p bs n _
  · exact fine_opcodes5 p bs n _
  · exact fine_opcodes6 p bs n _
  · exact fine_opcodes7 p bs n _
  · exact fine_opcodes8 p bs n _
  · exact fine_opcodes9 p bs n _
  · exact fine_opcodesA p bs n _
  · exact fine_opcodesB p bs n _
  · exact fine_opcodesC p bs n _
  · exact fine_opcodesD p bs n _
  · exact fine_opcodesE p bs n _
  · exact fine_opcodesF p bs n _

/-- A decoded unit has at least one byte and lies inside the bytes given; a prefix unit is one byte. -/
theorem decodeUnit_bounds (p : Prefixes) (bs : List Byte) (i : Instr) (m : Nat) (h : decodeUnit p bs = .ok i m) :
    1 ≤ m ∧ m ≤ bs.length ∧ (i.asPrefix ≠ none → m = 1) := by
  cases bs with
  | nil => exact absurd h (by simp [decodeUnit, takeByte])
  | cons op bs =>
    have h' : decodeOpcode p op bs 1 = .ok i m := h
    rw [List.length_cons]
    rcases fine_decodeOpcode p op bs 1 with hf | ⟨j, hj⟩
    · have := hf i m h'
      exact ⟨this.1, by omega, fun hn => absurd this.2.2 hn⟩
    · rw [h'] at hj
      cases hj
      exact ⟨by omega, by omega, fun _ => rfl⟩

namespace Machine

/-! ## Fetch -/

theorem fetchBytes_drop (s : State) (j n m : Nat) (h : m ≤ (fetchBytes s j n).length) :
    (fetchBytes s j n).drop m = fetchBytes s (j + m) (n - m) := by
  induction m generalizing j n with
  | zero => rfl
  | succ m ih =>
    cases n with
    | zero => exact absurd h (by simp [fetchBytes])
    | succ n =>
      simp only [fetchBytes] at h ⊢
      split at h
      · exact absurd h (by simp)
      · rename_i hlt
        rw [if_neg hlt, List.drop_succ_cons, ih (j + 1) n (by simpa using h), Nat.add_sub_add_right]
        congr 1; omega

theorem fetchBytes_same {s t : State} (hs : t.sreg = s.sreg) (hi : t.ip = s.ip) (hm : t.mem = s.mem)
    (hp : t.params = s.params) (j n : Nat) : fetchBytes t j n = fetchBytes s j n := by
  induction n generalizing j with
  | zero => rfl
  | succ n ih => rw [fetchBytes, fetchBytes, fetchAddr, fetchAddr, hs, hi, hm, hp, ih]

theorem fetchBytes_length_le (s : State) (j n : Nat) : (fetchBytes s j n).length ≤ n := by
  induction n generalizing j with
  | zero => simp [fetchBytes]
  | succ n ih =>
    simp only [fetchBytes]
    split
    · simp
    · rw [List.length_cons]; have := ih (j + 1); omega

/-! ## Units -/

theorem exec_prefix (i : Instr) (q : Prefix) (s : State) (h : i.asPrefix = some q) :
    exec i s = .next (s.setPre (s.pre.collect q)) := by
  cases i <;> cases h <;> rfl

theorem runUnits_succ (run : Instr → State → Result) (n : Nat) (s : State) :
    runUnits run (n + 1) s =
      match decodeUnit s.pre (fetchWindow s) with
      | .ok i m =>
        match i.asPrefix with
        | none => finish (run i (s.fetched m))
        | some _ =>
          match run i (s.fetched m) with
          | .next t => runUnits run n t
          | r => r
      | .unhandled m => raise (.unhandledOpcode (bytesSoFar s (s.k + m))) [] s
      | .malformed m => raise (.malformedInstruction (bytesSoFar s (s.k + m))) [] s
      | .short m => raise (fetchFault s (s.k + m)) [] s := rfl

/-- What happens to units decoded from the window, in terms of the decoder alone: `s` is the state with `k` bytes of
prefixes fetched. -/
theorem runUnits_decodeUnits (n : Nat) (s : State) (i : Instr) (m : Nat)
    (h : decodeUnits n s.pre (fetchWindow s) s.k = .ok i m) :
    runUnits exec n s =
      finish (exec i ((s.setPre (prefixesRead n s.pre (fetchWindow s))).fetched (m - s.k))) ∧ s.k ≤ m := by
  induction n generalizing s with
  | zero => exact absurd h (by simp [decodeUnits])
  | succ n ih =>
    rw [runUnits_succ]
    simp only [decodeUnits, prefixesRead] at h ⊢
    cases hd : decodeUnit s.pre (fetchWindow s) with
    | ok j c =>
      rw [hd] at h
      have hb := decodeUnit_bounds _ _ _ _ hd
      cases hj : j.asPrefix with
      | none =>
        simp only [hj] at h ⊢
        cases h
        refine ⟨?_, by omega⟩
        rw [show s.k + c - s.k = c by omega]; rfl
      | some q =>
        simp only [hj] at h ⊢
        rw [exec_prefix j q _ hj]
        have hc : c = 1 := hb.2.2 (by rw [hj]; simp)
        subst hc
        have hw : fetchWindow ((s.fetched 1).setPre (s.pre.collect q)) = (fetchWindow s).drop 1 := by
          show fetchBytes _ (s.k + 1) (maxLength - (s.k + 1)) = _
          rw [fetchWindow, fetchBytes_drop s s.k _ 1 hb.2.1,
            fetchBytes_same (s := s) (t := (s.fetched 1).setPre (s.pre.collect q)) rfl rfl rfl rfl]
          congr 1
        have := ih ((s.fetched 1).setPre (s.pre.collect q)) (by
          rw [hw]; exact h)
        refine ⟨?_, by have := this.2; simp only [State.setPre_k, State.fetched_k] at this; omega⟩
        have h2 := this.2
        simp only [State.setPre_k, State.fetched_k] at h2
        refine this.1.trans ?_
        rw [hw]
        congr 2
        simp only [State.fetched, State.setPre]
        congr 1
        omega
    | unhandled c => rw [hd] at h; exact absurd h (by simp)
    | malformed c => rw [hd] at h; exact absurd h (by simp)
    | short c => rw [hd] at h; exact absurd h (by simp)

/-! ## What a step can do, said once -/

theorem step_running {s : State} (h : s.running) : step s = runUnits exec maxLength s.beginInstr := by
  rw [step, stepWith, if_neg (by simp [h.1]), if_neg (by simp [h.2])]

theorem running_of_next {s t : State} (h : step s = .next t) : s.running := by
  rw [step, stepWith] at h
  split at h
  · cases h
  · split at h
    · cases h
    · rename_i h1 h2; exact ⟨by simpa using h1, by simpa using h2⟩

theorem fetchWindow_take (s : State) : (fetchWindow s.beginInstr).take maxLength = fetchWindow s.beginInstr :=
  List.take_of_length_le (Nat.le_trans (fetchBytes_length_le _ _ _) (by simp))

theorem decode_window {s : State} {i : Instr} {n : Nat} (h : decode (fetchWindow s.beginInstr) = .ok i n) :
    decodeUnits maxLength {} (fetchWindow s.beginInstr) 0 = .ok i n := by
  rw [decode, fetchWindow_take] at h
  split at h
  · split at h <;> cases h
  · exact h

/-- An instruction decoded past its prefixes is no prefix unit. -/
theorem decodeUnits_asPrefix (n : Nat) (p : Prefixes) (bs : List Byte) (k : Nat) (i : Instr) (m : Nat)
    (h : decodeUnits n p bs k = .ok i m) : i.asPrefix = none := by
  induction n generalizing p bs k with
  | zero => cases h
  | succ n ih =>
    rw [decodeUnits] at h
    split at h
    · split at h
      · exact ih _ _ _ h
      · cases h; assumption
    all_goals cases h

theorem fetchFault_partBytes (s : State) (n N : Nat) : (fetchFault s n).partBytes N = [] := by
  unfold fetchFault; split <;> rfl

/-- One prefix unit further, the window is one byte shorter. -/
theorem fetchWindow_prefix (s : State) (q : Prefix) (h : 1 ≤ (fetchWindow s).length) :
    fetchWindow ((s.fetched 1).setPre (s.pre.collect q)) = (fetchWindow s).drop 1 := by
  show fetchBytes _ (s.k + 1) (maxLength - (s.k + 1)) = _
  rw [fetchWindow, fetchBytes_drop s s.k _ 1 h,
    fetchBytes_same (s := s) (t := (s.fetched 1).setPre (s.pre.collect q)) rfl rfl rfl rfl]
  congr 1

/-- The units are an instruction, or the step faults with nothing written. -/
theorem runUnits_cases (n : Nat) (s : State) :
    (∃ i m, decodeUnits n s.pre (fetchWindow s) s.k = .ok i m) ∨
      ∃ info, runUnits exec n s = .next (faultState info s) := by
  induction n generalizing s with
  | zero => exact .inr ⟨fetchFault s s.k, raise_nothing _ _ (fetchFault_partBytes _ _ _)⟩
  | succ n ih =>
    rw [runUnits_succ, decodeUnits]
    cases hd : decodeUnit s.pre (fetchWindow s) with
    | ok j c =>
      cases hj : j.asPrefix with
      | none => exact .inl ⟨j, s.k + c, by simp [hj]⟩
      | some q =>
        have hb := decodeUnit_bounds _ _ _ _ hd
        have hc : c = 1 := hb.2.2 (by rw [hj]; simp)
        subst hc
        rcases ih ((s.fetched 1).setPre (s.pre.collect q)) with h | ⟨info, h⟩
        · left; simp only [hj]; rw [fetchWindow_prefix s q hb.2.1] at h; exact h
        · right
          refine ⟨info, ?_⟩
          simp only [hj, exec_prefix j q _ hj]
          exact h
    | unhandled c => exact .inr ⟨_, raise_nothing _ _ rfl⟩
    | malformed c => exact .inr ⟨_, raise_nothing _ _ rfl⟩
    | short c => exact .inr ⟨_, raise_nothing _ _ (fetchFault_partBytes _ _ _)⟩

/-- A step of a running core runs the instruction its bytes decode to, under some prefixes, or faults with nothing
written. -/
theorem step_cases (s : State) (h : s.running) :
    (∃ i n p, decode (fetchWindow s.beginInstr) = .ok i n ∧ i.asPrefix = none ∧
      step s = finish (exec i { s with pre := p, k := n })) ∨
      ∃ info, step s = .next (faultState info s) := by
  rcases runUnits_cases maxLength s.beginInstr with ⟨i, m, hd⟩ | ⟨info, hf⟩
  · left
    have hd' : decodeUnits maxLength {} (fetchWindow s.beginInstr) 0 = .ok i m := hd
    refine ⟨i, m, prefixesRead maxLength {} (fetchWindow s.beginInstr), ?_, decodeUnits_asPrefix _ _ _ _ _ _ hd', ?_⟩
    · rw [decode, fetchWindow_take, hd']
    · rw [step_running h, (runUnits_decodeUnits maxLength s.beginInstr i m hd').1]
      congr 2
      simp [State.fetched, State.setPre, State.beginInstr]
  · exact .inr ⟨info, by rw [step_running h, hf]; rfl⟩

end Machine

end Sys2Proof
end

