-- ==== Sys2Proof/Tests/Slice0.lean ====
section
/-! SUPPORT. The model's own tests. Their values come from the spec: its worked examples and 95_test_vectors.md, and encodings
written out from 30_encoding.md. The last part shows, for each obligation with hypotheses, a state and operands that meet them. -/

namespace Sys2Proof.Tests

open Sys2Proof Sys2Proof.Machine

/-! ## Well-formedness: an ill-formed term for each check -/

theorem test_wf_bp_alone_is_no_form : (Instr.addEbGb (.mem ⟨none, .base .bp⟩) .ax).wf = false := by decide
theorem test_wf_bp_alone_in_memory_only : (Instr.leaGvM .o16 .ax ⟨some .ss, .base .bp⟩).wf = false := by decide
theorem test_wf_immediate_too_wide : (Instr.addEaxIv .o16 0x10000).wf = false := by decide
theorem test_wf_immediate_too_wide_group : (Instr.movEvIv .o16 (.reg .bx) 0xFFFF0000).wf = false := by decide
theorem test_wf_mov_to_cs : (Instr.movSwEw .cs (.reg .ax)).wf = false := by decide
theorem test_wf_mov_from_cs : (Instr.movEwSw (.reg .ax) .cs).wf = true := by decide

/-- Every word of a table decodes, whole, to the instruction beside it. -/
def decodesTo (t : List (List Byte × Instr)) : Bool := t.all fun r => decode r.1 == .ok r.2 r.1.length

/-! ## Decoding: a word written out from the spec for every row (30_encoding.md R119-R126, R140-R165; spec/opcode_table.json) -/

/-- Words of AluBinary.lean's rows. -/
def wordsAluBinary1 : List (List Byte × Instr) :=
  [([0x00, 0xD3], .addEbGb (.reg .bx) .dx), ([0x01, 0x2C], .addEvGv .o16 (.mem ⟨none, .base .si⟩) .bp),
   ([0x26, 0x02, 0x06, 0x02, 0x03], .addGbEb .ax (.mem ⟨some .es, .direct 0x0302⟩)),
   ([0x66, 0x65, 0x03, 0x5E, 0x88], .addGvEv .o32 .bx (.mem ⟨some .gs, .disp8 .bp 0x88⟩)), ([0x04, 0x84], .addAlIb 0x84),
   ([0x66, 0x05, 0x05, 0x56, 0x34, 0x92], .addEaxIv .o32 0x92345605),
   ([0x26, 0x08, 0x23], .orEbGb (.mem ⟨some .es, .base .bpDi⟩) .sp),
   ([0x65, 0x09, 0x3E, 0x07, 0x03], .orEvGv .o16 (.mem ⟨some .gs, .direct 0x0307⟩) .di),
   ([0x0A, 0x53, 0x8D], .orGbEb .dx (.mem ⟨none, .disp8 .bpDi 0x8D⟩)),
   ([0x66, 0x0B, 0xAF, 0x3D, 0x12], .orGvEv .o32 .bp (.mem ⟨none, .disp16 .bx 0x123D⟩)), ([0x0C, 0x8A], .orAlIb 0x8A),
   ([0x66, 0x0D, 0x0B, 0x56, 0x34, 0x92], .orEaxIv .o32 0x9234560B),
   ([0x10, 0x36, 0x0C, 0x03], .adcEbGb (.mem ⟨none, .direct 0x030C⟩) .si),
   ([0x11, 0x48, 0x92], .adcEvGv .o16 (.mem ⟨none, .disp8 .bxSi 0x92⟩) .cx),
   ([0x26, 0x12, 0xA0, 0x42, 0x12], .adcGbEb .sp (.mem ⟨some .es, .disp16 .bxSi 0x1242⟩)),
   ([0x66, 0x13, 0xFB], .adcGvEv .o32 .di (.reg .bx)), ([0x14, 0x90], .adcAlIb 0x90),
   ([0x66, 0x15, 0x11, 0x56, 0x34, 0x92], .adcEaxIv .o32 0x92345611)]

theorem test_decode_AluBinary1 : decodesTo wordsAluBinary1 = true := by decide

/-- Words of AluBinary.lean's rows. -/
def wordsAluBinary2 : List (List Byte × Instr) :=
  [([0x26, 0x18, 0x45, 0x97], .sbbEbGb (.mem ⟨some .es, .disp8 .di 0x97⟩) .ax),
   ([0x65, 0x19, 0x99, 0x47, 0x12], .sbbEvGv .o16 (.mem ⟨some .gs, .disp16 .bxDi 0x1247⟩) .bx),
   ([0x1A, 0xF3], .sbbGbEb .si (.reg .bx)), ([0x66, 0x1B, 0x08], .sbbGvEv .o32 .cx (.mem ⟨none, .base .bxSi⟩)),
   ([0x1C, 0x96], .sbbAlIb 0x96), ([0x66, 0x1D, 0x17, 0x56, 0x34, 0x92], .sbbEaxIv .o32 0x92345617),
   ([0x20, 0x92, 0x4C, 0x12], .andEbGb (.mem ⟨none, .disp16 .bpSi 0x124C⟩) .dx),
   ([0x21, 0xEB], .andEvGv .o16 (.reg .bx) .bp), ([0x26, 0x22, 0x07], .andGbEb .ax (.mem ⟨some .es, .base .bx⟩)),
   ([0x66, 0x65, 0x23, 0x1E, 0x1B, 0x03], .andGvEv .o32 .bx (.mem ⟨some .gs, .direct 0x031B⟩)),
   ([0x24, 0x9C], .andAlIb 0x9C), ([0x66, 0x25, 0x1D, 0x56, 0x34, 0x92], .andEaxIv .o32 0x9234561D),
   ([0x28, 0xE3], .subEbGb (.reg .bx) .sp), ([0x65, 0x29, 0x3F], .subEvGv .o16 (.mem ⟨some .gs, .base .bx⟩) .di),
   ([0x2A, 0x16, 0x20, 0x03], .subGbEb .dx (.mem ⟨none, .direct 0x0320⟩)),
   ([0x66, 0x2B, 0x6C, 0xA6], .subGvEv .o32 .bp (.mem ⟨none, .disp8 .si 0xA6⟩)), ([0x2C, 0xA2], .subAlIb 0xA2),
   ([0x66, 0x2D, 0x23, 0x56, 0x34, 0x92], .subEaxIv .o32 0x92345623)]

theorem test_decode_AluBinary2 : decodesTo wordsAluBinary2 = true := by decide

/-- Words of AluBinary.lean's rows. -/
def wordsAluBinary3 : List (List Byte × Instr) :=
  [([0x30, 0x35], .xorEbGb (.mem ⟨none, .base .di⟩) .si),
   ([0x31, 0x0E, 0x25, 0x03], .xorEvGv .o16 (.mem ⟨none, .direct 0x0325⟩) .cx),
   ([0x26, 0x32, 0x61, 0xAB], .xorGbEb .sp (.mem ⟨some .es, .disp8 .bxDi 0xAB⟩)),
   ([0x66, 0x65, 0x33, 0xBD, 0x5B, 0x12], .xorGvEv .o32 .di (.mem ⟨some .gs, .disp16 .di 0x125B⟩)),
   ([0x34, 0xA8], .xorAlIb 0xA8), ([0x66, 0x35, 0x29, 0x56, 0x34, 0x92], .xorEaxIv .o32 0x92345629),
   ([0x26, 0x38, 0x06, 0x2A, 0x03], .cmpEbGb (.mem ⟨some .es, .direct 0x032A⟩) .ax),
   ([0x65, 0x39, 0x5E, 0xB0], .cmpEvGv .o16 (.mem ⟨some .gs, .disp8 .bp 0xB0⟩) .bx),
   ([0x3A, 0xB6, 0x60, 0x12], .cmpGbEb .si (.mem ⟨none, .disp16 .bp 0x1260⟩)),
   ([0x66, 0x3B, 0xCB], .cmpGvEv .o32 .cx (.reg .bx)), ([0x3C, 0xAE], .cmpAlIb 0xAE),
   ([0x66, 0x3D, 0x2F, 0x56, 0x34, 0x92], .cmpEaxIv .o32 0x9234562F),
   ([0x80, 0x43, 0xB5, 0xB0], .addEbIb (.mem ⟨none, .disp8 .bpDi 0xB5⟩) 0xB0),
   ([0x81, 0x87, 0x65, 0x12, 0x32, 0x80], .addEvIv .o16 (.mem ⟨none, .disp16 .bx 0x1265⟩) 0x8032),
   ([0x83, 0xC3, 0xB2], .addEvSIb .o16 (.reg .bx) 0xB2),
   ([0x65, 0x80, 0x0A, 0xB3], .orEbIb (.mem ⟨some .gs, .base .bpSi⟩) 0xB3),
   ([0x66, 0x81, 0x0E, 0x34, 0x03, 0x34, 0x56, 0x34, 0x92], .orEvIv .o32 (.mem ⟨none, .direct 0x0334⟩) 0x92345634),
   ([0x66, 0x83, 0x48, 0xBA, 0xB5], .orEvSIb .o32 (.mem ⟨none, .disp8 .bxSi 0xBA⟩) 0xB5)]

theorem test_decode_AluBinary3 : decodesTo wordsAluBinary3 = true := by decide

/-- Words of AluBinary.lean's rows. -/
def wordsAluBinary4 : List (List Byte × Instr) :=
  [([0x26, 0x80, 0x90, 0x6A, 0x12, 0xB6], .adcEbIb (.mem ⟨some .es, .disp16 .bxSi 0x126A⟩) 0xB6),
   ([0x81, 0xD6, 0x38, 0x80], .adcEvIv .o16 (.reg .si) 0x8038),
   ([0x83, 0x11, 0xB8], .adcEvSIb .o16 (.mem ⟨none, .base .bxDi⟩) 0xB8),
   ([0x80, 0x1E, 0x39, 0x03, 0xB9], .sbbEbIb (.mem ⟨none, .direct 0x0339⟩) 0xB9),
   ([0x66, 0x26, 0x81, 0x5D, 0xBF, 0x3A, 0x56, 0x34, 0x92], .sbbEvIv .o32 (.mem ⟨some .es, .disp8 .di 0xBF⟩) 0x9234563A),
   ([0x66, 0x65, 0x83, 0x99, 0x6F, 0x12, 0xBB], .sbbEvSIb .o32 (.mem ⟨some .gs, .disp16 .bxDi 0x126F⟩) 0xBB),
   ([0x80, 0xE1, 0xBC], .andEbIb (.reg .cx) 0xBC),
   ([0x81, 0x20, 0x3E, 0x80], .andEvIv .o16 (.mem ⟨none, .base .bxSi⟩) 0x803E),
   ([0x26, 0x83, 0x26, 0x3E, 0x03, 0xBE], .andEvSIb .o16 (.mem ⟨some .es, .direct 0x033E⟩) 0xBE),
   ([0x65, 0x80, 0x6A, 0xC4, 0xBF], .subEbIb (.mem ⟨some .gs, .disp8 .bpSi 0xC4⟩) 0xBF),
   ([0x66, 0x81, 0xAA, 0x74, 0x12, 0x40, 0x56, 0x34, 0x92], .subEvIv .o32 (.mem ⟨none, .disp16 .bpSi 0x1274⟩) 0x92345640),
   ([0x66, 0x83, 0xEB, 0xC1], .subEvSIb .o32 (.reg .bx) 0xC1),
   ([0x26, 0x80, 0x37, 0xC2], .xorEbIb (.mem ⟨some .es, .base .bx⟩) 0xC2),
   ([0x65, 0x81, 0x36, 0x43, 0x03, 0x44, 0x80], .xorEvIv .o16 (.mem ⟨some .gs, .direct 0x0343⟩) 0x8044),
   ([0x83, 0x77, 0xC9, 0xC4], .xorEvSIb .o16 (.mem ⟨none, .disp8 .bx 0xC9⟩) 0xC4),
   ([0x80, 0xBB, 0x79, 0x12, 0xC5], .cmpEbIb (.mem ⟨none, .disp16 .bpDi 0x1279⟩) 0xC5),
   ([0x66, 0x81, 0xFE, 0x46, 0x56, 0x34, 0x92], .cmpEvIv .o32 (.reg .si) 0x92345646),
   ([0x66, 0x65, 0x83, 0x3F, 0xC7], .cmpEvSIb .o32 (.mem ⟨some .gs, .base .bx⟩) 0xC7)]

theorem test_decode_AluBinary4 : decodesTo wordsAluBinary4 = true := by decide

/-- Words of AluBinary.lean's rows. -/
def wordsAluBinary5 : List (List Byte × Instr) :=
  [([0x84, 0x16, 0x48, 0x03], .testEbGb (.mem ⟨none, .direct 0x0348⟩) .dx),
   ([0x85, 0x6C, 0xCE], .testEvGv .o16 (.mem ⟨none, .disp8 .si 0xCE⟩) .bp), ([0xA8, 0xCA], .testAlIb 0xCA),
   ([0x66, 0xA9, 0x4B, 0x56, 0x34, 0x92], .testEaxIv .o32 0x9234564B),
   ([0xF6, 0x05, 0xCC], .testEbIb (.mem ⟨none, .base .di⟩) 0xCC),
   ([0x66, 0xF7, 0x06, 0x4D, 0x03, 0x4D, 0x56, 0x34, 0x92], .testEvIv .o32 (.mem ⟨none, .direct 0x034D⟩) 0x9234564D)]

theorem test_decode_AluBinary5 : decodesTo wordsAluBinary5 = true := by decide

/-- Words of AluUnary.lean's rows. -/
def wordsAluUnary : List (List Byte × Instr) :=
  [([0x43], .incReg .o16 .bx), ([0x65, 0xFE, 0x85, 0x83, 0x12], .incEb (.mem ⟨some .gs, .disp16 .di 0x1283⟩)),
   ([0xFF, 0xC1], .incEv .o16 (.reg .cx)), ([0x66, 0x4C], .decReg .o32 .sp),
   ([0x26, 0xFE, 0x0E, 0x52, 0x03], .decEb (.mem ⟨some .es, .direct 0x0352⟩)),
   ([0x66, 0x65, 0xFF, 0x4E, 0xD8], .decEv .o32 (.mem ⟨some .gs, .disp8 .bp 0xD8⟩)),
   ([0xF6, 0x96, 0x88, 0x12], .notEb (.mem ⟨none, .disp16 .bp 0x1288⟩)), ([0xF7, 0xD4], .notEv .o16 (.reg .sp)),
   ([0x26, 0xF6, 0x1B], .negEb (.mem ⟨some .es, .base .bpDi⟩)),
   ([0x66, 0x65, 0xF7, 0x1E, 0x57, 0x03], .negEv .o32 (.mem ⟨some .gs, .direct 0x0357⟩))]

theorem test_decode_AluUnary : decodesTo wordsAluUnary = true := by decide

/-- Words of MulDiv.lean's rows. -/
def wordsMulDiv : List (List Byte × Instr) :=
  [([0xF6, 0x63, 0xDD], .mulEb (.mem ⟨none, .disp8 .bpDi 0xDD⟩)),
   ([0x66, 0xF7, 0xA7, 0x8D, 0x12], .mulEv .o32 (.mem ⟨none, .disp16 .bx 0x128D⟩)), ([0xF6, 0xE8], .imulEb (.reg .ax)),
   ([0x65, 0xF7, 0x2A], .imulEv .o16 (.mem ⟨some .gs, .base .bpSi⟩)),
   ([0xF6, 0x36, 0x5C, 0x03], .divEb (.mem ⟨none, .direct 0x035C⟩)),
   ([0x66, 0xF7, 0x70, 0xE2], .divEv .o32 (.mem ⟨none, .disp8 .bxSi 0xE2⟩)),
   ([0x26, 0xF6, 0xB8, 0x92, 0x12], .idivEb (.mem ⟨some .es, .disp16 .bxSi 0x1292⟩)),
   ([0x66, 0xF7, 0xFB], .idivEv .o32 (.reg .bx)), ([0x98], .cbw), ([0x66, 0x98], .cwde), ([0x99], .cwd),
   ([0x66, 0x99], .cdq)]

theorem test_decode_MulDiv : decodesTo wordsMulDiv = true := by decide

/-- Words of Shift.lean's rows. -/
def wordsShift1 : List (List Byte × Instr) :=
  [([0xC0, 0xC5, 0xE4], .rolEbIb (.reg .bp) 0xE4),
   ([0x66, 0xC1, 0x00, 0xE5], .rolEvIb .o32 (.mem ⟨none, .base .bxSi⟩) 0xE5),
   ([0x26, 0xD0, 0x06, 0x66, 0x03], .rolEb1 (.mem ⟨some .es, .direct 0x0366⟩)),
   ([0x65, 0xD1, 0x42, 0xEC], .rolEv1 .o16 (.mem ⟨some .gs, .disp8 .bpSi 0xEC⟩)),
   ([0xD2, 0x82, 0x9C, 0x12], .rolEbCl (.mem ⟨none, .disp16 .bpSi 0x129C⟩)), ([0x66, 0xD3, 0xC6], .rolEvCl .o32 (.reg .si)),
   ([0x26, 0xC0, 0x0F, 0xEA], .rorEbIb (.mem ⟨some .es, .base .bx⟩) 0xEA),
   ([0x66, 0x65, 0xC1, 0x0E, 0x6B, 0x03, 0xEB], .rorEvIb .o32 (.mem ⟨some .gs, .direct 0x036B⟩) 0xEB),
   ([0xD0, 0x4F, 0xF1], .rorEb1 (.mem ⟨none, .disp8 .bx 0xF1⟩)),
   ([0xD1, 0x8B, 0xA1, 0x12], .rorEv1 .o16 (.mem ⟨none, .disp16 .bpDi 0x12A1⟩)), ([0xD2, 0xC8], .rorEbCl (.reg .ax)),
   ([0x66, 0x65, 0xD3, 0x0F], .rorEvCl .o32 (.mem ⟨some .gs, .base .bx⟩)),
   ([0xC0, 0x16, 0x70, 0x03, 0xF0], .rclEbIb (.mem ⟨none, .direct 0x0370⟩) 0xF0),
   ([0x66, 0xC1, 0x54, 0xF6, 0xF1], .rclEvIb .o32 (.mem ⟨none, .disp8 .si 0xF6⟩) 0xF1),
   ([0x26, 0xD0, 0x94, 0xA6, 0x12], .rclEb1 (.mem ⟨some .es, .disp16 .si 0x12A6⟩)), ([0xD1, 0xD2], .rclEv1 .o16 (.reg .dx)),
   ([0xD2, 0x15], .rclEbCl (.mem ⟨none, .base .di⟩)),
   ([0x66, 0xD3, 0x16, 0x75, 0x03], .rclEvCl .o32 (.mem ⟨none, .direct 0x0375⟩))]

theorem test_decode_Shift1 : decodesTo wordsShift1 = true := by decide

/-- Words of Shift.lean's rows. -/
def wordsShift2 : List (List Byte × Instr) :=
  [([0x26, 0xC0, 0x59, 0xFB, 0xF6], .rcrEbIb (.mem ⟨some .es, .disp8 .bxDi 0xFB⟩) 0xF6),
   ([0x66, 0x65, 0xC1, 0x9D, 0xAB, 0x12, 0xF7], .rcrEvIb .o32 (.mem ⟨some .gs, .disp16 .di 0x12AB⟩) 0xF7),
   ([0xD0, 0xDC], .rcrEb1 (.reg .sp)), ([0xD1, 0x1C], .rcrEv1 .o16 (.mem ⟨none, .base .si⟩)),
   ([0x26, 0xD2, 0x1E, 0x7A, 0x03], .rcrEbCl (.mem ⟨some .es, .direct 0x037A⟩)),
   ([0x66, 0x65, 0xD3, 0x5E, 0x00], .rcrEvCl .o32 (.mem ⟨some .gs, .disp8 .bp 0x00⟩)),
   ([0xC0, 0xA6, 0xB0, 0x12, 0xFC], .shlEbIb (.mem ⟨none, .disp16 .bp 0x12B0⟩) 0xFC),
   ([0x66, 0xC1, 0xE6, 0xFD], .shlEvIb .o32 (.reg .si) 0xFD), ([0x26, 0xD0, 0x23], .shlEb1 (.mem ⟨some .es, .base .bpDi⟩)),
   ([0x65, 0xD1, 0x26, 0x7F, 0x03], .shlEv1 .o16 (.mem ⟨some .gs, .direct 0x037F⟩)),
   ([0xD2, 0x63, 0x05], .shlEbCl (.mem ⟨none, .disp8 .bpDi 0x05⟩)),
   ([0x66, 0xD3, 0xA7, 0xB5, 0x12], .shlEvCl .o32 (.mem ⟨none, .disp16 .bx 0x12B5⟩)),
   ([0xC0, 0xE8, 0x02], .shrEbIb (.reg .ax) 0x02),
   ([0x66, 0x65, 0xC1, 0x2A, 0x03], .shrEvIb .o32 (.mem ⟨some .gs, .base .bpSi⟩) 0x03),
   ([0xD0, 0x2E, 0x84, 0x03], .shrEb1 (.mem ⟨none, .direct 0x0384⟩)),
   ([0xD1, 0x68, 0x0A], .shrEv1 .o16 (.mem ⟨none, .disp8 .bxSi 0x0A⟩)),
   ([0x26, 0xD2, 0xA8, 0xBA, 0x12], .shrEbCl (.mem ⟨some .es, .disp16 .bxSi 0x12BA⟩)),
   ([0x66, 0xD3, 0xE9], .shrEvCl .o32 (.reg .cx))]

theorem test_decode_Shift2 : decodesTo wordsShift2 = true := by decide

/-- Words of Shift.lean's rows. -/
def wordsShift3 : List (List Byte × Instr) :=
  [([0xC0, 0x39, 0x08], .sarEbIb (.mem ⟨none, .base .bxDi⟩) 0x08),
   ([0x66, 0xC1, 0x3E, 0x89, 0x03, 0x09], .sarEvIb .o32 (.mem ⟨none, .direct 0x0389⟩) 0x09),
   ([0x26, 0xD0, 0x7D, 0x0F], .sarEb1 (.mem ⟨some .es, .disp8 .di 0x0F⟩)),
   ([0x65, 0xD1, 0xB9, 0xBF, 0x12], .sarEv1 .o16 (.mem ⟨some .gs, .disp16 .bxDi 0x12BF⟩)),
   ([0xD2, 0xFC], .sarEbCl (.reg .sp)), ([0x66, 0xD3, 0x38], .sarEvCl .o32 (.mem ⟨none, .base .bxSi⟩))]

theorem test_decode_Shift3 : decodesTo wordsShift3 = true := by decide

/-- Words of FlagOps.lean's rows. -/
def wordsFlagOps : List (List Byte × Instr) :=
  [([0xF8], .clc), ([0xF9], .stc), ([0xF5], .cmc), ([0xFC], .cld), ([0xFD], .std), ([0xFA], .cli), ([0xFB], .sti),
   ([0x9F], .lahf), ([0x9E], .sahf), ([0x9C], .pushf), ([0x9D], .popf)]

theorem test_decode_FlagOps : decodesTo wordsFlagOps = true := by decide

/-- Words of Control.lean's rows. -/
def wordsControl1 : List (List Byte × Instr) :=
  [([0x70, 0x09], .jo 0x09), ([0x71, 0x0A], .jno 0x0A), ([0x72, 0x0B], .jc 0x0B), ([0x73, 0x0C], .jnc 0x0C),
   ([0x74, 0x0D], .jz 0x0D), ([0x75, 0x0E], .jnz 0x0E), ([0x76, 0x0F], .jbe 0x0F), ([0x77, 0x10], .ja 0x10),
   ([0x78, 0x11], .js 0x11), ([0x79, 0x12], .jns 0x12), ([0x7A, 0x13], .jpe 0x13), ([0x7B, 0x14], .jpo 0x14),
   ([0x7C, 0x15], .jl 0x15), ([0x7D, 0x16], .jge 0x16), ([0x7E, 0x17], .jle 0x17), ([0x7F, 0x18], .jg 0x18),
   ([0xE0, 0x19], .loopne 0x19), ([0xE1, 0x1A], .loope 0x1A)]

theorem test_decode_Control1 : decodesTo wordsControl1 = true := by decide

/-- Words of Control.lean's rows. -/
def wordsControl2 : List (List Byte × Instr) :=
  [([0xE2, 0x1B], .loop 0x1B), ([0xE3, 0x1C], .jcxz 0x1C), ([0xE9, 0xAD, 0xA1], .jmpRel16 0xA1AD),
   ([0xEB, 0x1E], .jmpRel8 0x1E), ([0xFF, 0xE0], .jmpEv (.reg .ax)),
   ([0xEA, 0xB0, 0xB2, 0xB0, 0xC3], .jmpFar 0xC3B0 0xB2B0), ([0xFF, 0x2E, 0xB1, 0x03], .jmpMp ⟨none, .direct 0x03B1⟩),
   ([0xE8, 0xB2, 0xA1], .callRel16 0xA1B2),
   ([0x65, 0xFF, 0x91, 0xE7, 0x12], .callEv (.mem ⟨some .gs, .disp16 .bxDi 0x12E7⟩)),
   ([0x9A, 0xB4, 0xB2, 0xB4, 0xC3], .callFar 0xC3B4 0xB2B4), ([0xFF, 0x1E, 0xB5, 0x03], .callMp ⟨none, .direct 0x03B5⟩),
   ([0xC3], .ret), ([0xC2, 0xB7, 0xA1], .retIw 0xA1B7), ([0xCB], .retf), ([0xCA, 0xB9, 0xA1], .retfIw 0xA1B9),
   ([0xCD, 0x2A], .intIb 0x2A), ([0xCC], .int3), ([0xCE], .into)]

theorem test_decode_Control2 : decodesTo wordsControl2 = true := by decide

/-- Words of Control.lean's rows. -/
def wordsControl3 : List (List Byte × Instr) :=
  [([0xCF], .iret), ([0xF4], .hlt)]

theorem test_decode_Control3 : decodesTo wordsControl3 = true := by decide

/-- Words of Strings.lean's rows. -/
def wordsStrings1 : List (List Byte × Instr) :=
  [([0x36, 0xA4], .movsb (some .ss)), ([0xF3, 0xA4], .repMovsb none), ([0x26, 0xA5], .movsw (some .es)),
   ([0xF3, 0x2E, 0xA5], .repMovsw (some .cs)), ([0x66, 0x64, 0xA5], .movsd (some .fs)),
   ([0x66, 0xF3, 0x65, 0xA5], .repMovsd (some .gs)), ([0x36, 0xA6], .cmpsb (some .ss)), ([0xF3, 0xA6], .repeCmpsb none),
   ([0xF2, 0x26, 0xA6], .repneCmpsb (some .es)), ([0x2E, 0xA7], .cmpsw (some .cs)),
   ([0xF3, 0x64, 0xA7], .repeCmpsw (some .fs)), ([0xF2, 0x65, 0xA7], .repneCmpsw (some .gs)),
   ([0x66, 0x36, 0xA7], .cmpsd (some .ss)), ([0x66, 0xF3, 0xA7], .repeCmpsd none),
   ([0x66, 0xF2, 0x26, 0xA7], .repneCmpsd (some .es)), ([0xAA], .stosb), ([0xF3, 0xAA], .repStosb), ([0xAB], .stosw)]

theorem test_decode_Strings1 : decodesTo wordsStrings1 = true := by decide

/-- Words of Strings.lean's rows. -/
def wordsStrings2 : List (List Byte × Instr) :=
  [([0xF3, 0xAB], .repStosw), ([0x66, 0xAB], .stosd), ([0x66, 0xF3, 0xAB], .repStosd), ([0x2E, 0xAC], .lodsb (some .cs)),
   ([0xF3, 0x64, 0xAC], .repLodsb (some .fs)), ([0x65, 0xAD], .lodsw (some .gs)),
   ([0xF3, 0x36, 0xAD], .repLodsw (some .ss)), ([0x66, 0xAD], .lodsd none),
   ([0x66, 0xF3, 0x26, 0xAD], .repLodsd (some .es)), ([0xAE], .scasb), ([0xF3, 0xAE], .repeScasb),
   ([0xF2, 0xAE], .repneScasb), ([0xAF], .scasw), ([0xF3, 0xAF], .repeScasw), ([0xF2, 0xAF], .repneScasw),
   ([0x66, 0xAF], .scasd), ([0x66, 0xF3, 0xAF], .repeScasd), ([0x66, 0xF2, 0xAF], .repneScasd)]

theorem test_decode_Strings2 : decodesTo wordsStrings2 = true := by decide

/-- Words of Transfer.lean's rows. -/
def wordsTransfer1 : List (List Byte × Instr) :=
  [([0x65, 0x88, 0x1E, 0xE3, 0x03], .movEbGb (.mem ⟨some .gs, .direct 0x03E3⟩) .bx),
   ([0x89, 0x77, 0x69], .movEvGv .o16 (.mem ⟨none, .disp8 .bx 0x69⟩) .si),
   ([0x8A, 0x8B, 0x19, 0x13], .movGbEb .cx (.mem ⟨none, .disp16 .bpDi 0x1319⟩)),
   ([0x8B, 0xE3], .movGvEv .o16 .sp (.reg .bx)), ([0xB6, 0x67], .movRegIb .si 0x67),
   ([0x66, 0xB9, 0xE8, 0x56, 0x34, 0x92], .movRegIv .o32 .cx 0x923456E8),
   ([0xC6, 0x44, 0x6E, 0x69], .movEbIb (.mem ⟨none, .disp8 .si 0x6E⟩) 0x69),
   ([0x26, 0xC7, 0x84, 0x1E, 0x13, 0xEB, 0x80], .movEvIv .o16 (.mem ⟨some .es, .disp16 .si 0x131E⟩) 0x80EB),
   ([0x26, 0xA0, 0xEB, 0xA1], .movAlMoffs (some .es) 0xA1EB),
   ([0x2E, 0xA1, 0xEC, 0xA1], .movEaxMoffs .o16 (some .cs) 0xA1EC),
   ([0x64, 0xA2, 0xED, 0xA1], .movMoffsAl (some .fs) 0xA1ED),
   ([0x66, 0x65, 0xA3, 0xEE, 0xA1], .movMoffsEax .o32 (some .gs) 0xA1EE),
   ([0x65, 0x8C, 0xAD, 0x23, 0x13], .movEwSw (.mem ⟨some .gs, .disp16 .di 0x1323⟩) .gs),
   ([0x8E, 0xC1], .movSwEw .es (.reg .cx)), ([0x86, 0x2C], .xchgEbGb (.mem ⟨none, .base .si⟩) .bp),
   ([0x26, 0x87, 0x06, 0xF2, 0x03], .xchgEvGv .o16 (.mem ⟨some .es, .direct 0x03F2⟩) .ax), ([0x66, 0x91], .xchgEaxCx .o32),
   ([0x66, 0x92], .xchgEaxDx .o32)]

theorem test_decode_Transfer1 : decodesTo wordsTransfer1 = true := by decide

/-- Words of Transfer.lean's rows. -/
def wordsTransfer2 : List (List Byte × Instr) :=
  [([0x66, 0x93], .xchgEaxBx .o32), ([0x94], .xchgEaxSp .o16), ([0x95], .xchgEaxBp .o16), ([0x96], .xchgEaxSi .o16),
   ([0x66, 0x97], .xchgEaxDi .o32), ([0x66, 0x90], .nop .o32),
   ([0x66, 0x65, 0x8D, 0x99, 0x2F, 0x13], .leaGvM .o32 .bx ⟨some .gs, .disp16 .bxDi 0x132F⟩),
   ([0xC4, 0x35], .lesGvMp .o16 .si ⟨none, .base .di⟩),
   ([0xC5, 0x0E, 0xFD, 0x03], .ldsGvMp .o16 .cx ⟨none, .direct 0x03FD⟩),
   ([0x26, 0x0F, 0xB2, 0x61, 0x83], .lssGvMp .o16 .sp ⟨some .es, .disp8 .bxDi 0x83⟩),
   ([0x66, 0x65, 0x0F, 0xB4, 0xBD, 0x33, 0x13], .lfsGvMp .o32 .di ⟨some .gs, .disp16 .di 0x1333⟩),
   ([0x66, 0x0F, 0xB5, 0x11], .lgsGvMp .o32 .dx ⟨none, .base .bxDi⟩), ([0x36, 0xD7], .xlat (some .ss)),
   ([0x57], .pushReg .di), ([0x06], .pushEs), ([0x0E], .pushCs), ([0x16], .pushSs), ([0x1E], .pushDs)]

theorem test_decode_Transfer2 : decodesTo wordsTransfer2 = true := by decide

/-- Words of Transfer.lean's rows. -/
def wordsTransfer3 : List (List Byte × Instr) :=
  [([0x65, 0xFF, 0x72, 0x8C], .pushEv (.mem ⟨some .gs, .disp8 .bpSi 0x8C⟩)), ([0x59], .popReg .cx), ([0x07], .popEs),
   ([0x17], .popSs), ([0x1F], .popDs), ([0x8F, 0x47, 0x91], .popEv (.mem ⟨none, .disp8 .bx 0x91⟩))]

theorem test_decode_Transfer3 : decodesTo wordsTransfer3 = true := by decide

/-- The nine prefix bytes. -/
def wordsPrefix : List (List Byte × Instr) :=
  [([0x26], .segEs), ([0x2E], .segCs), ([0x36], .segSs), ([0x3E], .segDs), ([0x64], .segFs), ([0x65], .segGs),
   ([0x66], .opSize), ([0xF3], .repE), ([0xF2], .repNe)]

theorem test_decode_Prefix : (wordsPrefix.all fun r => decodeUnit {} r.1 == .ok r.2 1) = true := by decide

/-! ## Decoding: what is refused (95_test_vectors.md 2.11) -/

theorem test_refused_unhandled :
    ([[0x0F, 0x00], [0x27], [0xD8, 0xC0], [0xE4, 0x60], [0xF0, 0x90], [0x67, 0x8B, 0x00], [0xFE, 0x10], [0xF7, 0xC8],
      [0xFF, 0xFF], [0xD0, 0xF0], [0x66, 0x50], [0xF3, 0x90], [0xF2, 0xA4]].all fun bs =>
      match decode bs with | .unhandled _ => true | _ => false) = true := by decide
theorem test_refused_malformed :
    ([[0x8D, 0xC0], [0xC4, 0xC0], [0x8E, 0xC8], [0x8C, 0xF8], [0x8C, 0xF0], [0xFF, 0xE8], [0x0F, 0xB2, 0xC0]].all fun bs =>
      match decode bs with | .malformed _ => true | _ => false) = true := by decide
theorem test_fifteen_bytes : decode (List.replicate 14 0x26 ++ [0x90]) = .ok (.nop .o16) 15 := by decide
theorem test_sixteenth_byte : decode (List.replicate 15 0x26 ++ [0x90]) = .unhandled 15 := by decide
theorem test_last_segment_wins :
    decode [0x26, 0x3E, 0x8B, 0x07] = .ok (.movGvEv .o16 .ax (.mem ⟨some .ds, .base .bx⟩)) 4 := by decide
theorem test_two_operand_sizes : decode [0x66, 0x66, 0xB8, 0x78, 0x56, 0x34, 0x12] = .ok (.movRegIv .o32 .ax 0x12345678) 7 := by
  decide

/-! ## One step of an instruction (the examples of 40-47 and 95_test_vectors.md) -/

/-- The start state of the vectors: the reset state with IP = 0x0100. -/
def boot : State := State.reset.setIp 0x0100

/-- Set an 8-bit register. -/
def r8 (r : Reg) (v : Byte) (s : State) : State := s.setGpr (s.gpr.set8 r v)

/-- Set a 16-bit register. -/
def r16 (r : Reg) (v : Word) (s : State) : State := s.setGpr (s.gpr.set16 r v)

/-- Set a 32-bit register. -/
def r32 (r : Reg) (v : Dword) (s : State) : State := s.setGpr (s.gpr.set r v)

/-- Set a segment register. -/
def sr (r : SReg) (v : Word) (s : State) : State := s.setSreg r v

/-- Set the flags to an image. -/
def fl (v : Word) (s : State) : State := s.setFlags (Flags.ofImage v)

/-- Set bytes of memory. -/
def at_ (p : Nat) (bs : List Byte) (s : State) : State := s.setMem (Memory.writeBytes s.mem p bs)

/-- Read n bytes of memory as a number. -/
def m (n p : Nat) (t : State) : Nat := Memory.load t.mem p n

/-- What one step makes of the state with these bytes at CS:IP, if it is a next state. -/
def gives {α : Type} (code : List Byte) (s : State) (f : State → α) : Option α :=
  match step (s.withBytes 0 code) with
  | .next t => some (f t)
  | _ => none

/-- CF, OF, SF, ZF, PF. -/
def cosz (t : State) : List Bool := [t.flags.CF, t.flags.OF, t.flags.SF, t.flags.ZF, t.flags.PF]

theorem test_add_word : gives [0x05, 0x21, 0x00] (boot |> r16 .ax 0x1000) (fun t => (t.gpr.get16 .ax, cosz t)) =
      some (0x1021, [false, false, false, false, true]) := by decide
theorem test_add_byte_overflow : gives [0x04, 0x01] (boot |> r8 .ax 0x7F) (fun t => (t.gpr.get8 .ax, cosz t)) =
      some (0x80, [false, true, true, false, false]) := by decide
theorem test_adc_carry_chain :
    gives [0x11, 0xD8] (boot |> r16 .ax 0xFFFF |> r16 .bx 0xFFFF |> fl 1) (fun t => (t.gpr.get16 .ax, cosz t)) =
      some (0xFFFF, [true, false, true, false, true]) := by decide
theorem test_sub_borrow : gives [0x28, 0xD8] (boot |> r8 .bx 1) (fun t => (t.gpr.get8 .ax, cosz t)) =
      some (0xFF, [true, false, true, false, true]) := by decide
theorem test_sub_dword :
    gives [0x66, 0x29, 0xD8] (boot |> r32 .ax 0x80000000 |> r32 .bx 1) (fun t => (t.gpr.get .ax, t.flags.OF)) =
      some (0x7FFFFFFF, true) := by decide
theorem test_sbb_equal_with_borrow :
    gives [0x18, 0xD8] (boot |> r8 .ax 3 |> r8 .bx 3 |> fl 1) (fun t => (t.gpr.get8 .ax, cosz t)) =
      some (0xFF, [true, false, true, false, true]) := by decide
theorem test_sbb_word : gives [0x19, 0xD8] (boot |> r16 .ax 0x8000 |> fl 1) (fun t => (t.gpr.get16 .ax, cosz t)) =
      some (0x7FFF, [false, true, false, false, true]) := by decide
theorem test_cmp_keeps_operand : gives [0x83, 0xFB, 0x05] (boot |> r16 .bx 5) (fun t => (t.gpr.get16 .bx, cosz t)) =
      some (5, [false, false, false, true, true]) := by decide
theorem test_cmp_overflow : gives [0x3C, 0x01] (boot |> r8 .ax 0x80) (fun t => (t.gpr.get8 .ax, cosz t)) =
      some (0x80, [false, true, false, false, false]) := by decide
theorem test_and_word :
    gives [0x21, 0xD8] (boot |> r16 .ax 0x1110 |> r16 .bx 0x1321) (fun t => (t.gpr.get16 .ax, cosz t)) =
      some (0x1100, [false, false, false, false, true]) := by decide
theorem test_and_source_policy_carry : gives [0x20, 0xD8] (boot) (fun t => (t.gpr.get8 .ax, cosz t)) =
      some (0, [true, false, false, true, true]) := by decide
theorem test_and_x86_policy :
    gives [0x20, 0xD8]
      ({ boot with params := { Params.default with andFlagPolicy := .x86 } })
      (fun t => (t.gpr.get8 .ax, cosz t)) =
      some (0, [false, false, false, true, true]) := by decide
theorem test_test_source_policy : gives [0xA8, 0x00] (boot |> r8 .ax 0) (fun t => (t.gpr.get8 .ax, cosz t)) =
      some (0, [true, false, false, true, true]) := by decide
theorem test_or_byte : gives [0x0C, 0xF0] (boot |> r8 .ax 0x0F |> fl 0x0801) (fun t => (t.gpr.get8 .ax, cosz t)) =
      some (0xFF, [false, false, true, false, true]) := by decide
theorem test_xor_word : gives [0x35, 0xFF, 0xFF] (boot |> r16 .ax 0x1234) (fun t => (t.gpr.get16 .ax, cosz t)) =
      some (0xEDCB, [false, false, true, false, false]) := by decide
theorem test_alu_leaves_af : gives [0x04, 0x01] (boot |> fl 0x0010) (fun t => t.flags.AF) =
      some true := by decide
theorem test_add_sign_extended_byte :
    gives [0x83, 0xC0, 0xFF] (boot |> r16 .ax 2) (fun t => (t.gpr.get16 .ax, t.flags.CF)) =
      some (1, true) := by decide
theorem test_inc_word : gives [0x40] (boot |> r16 .ax 0x7FFF) (fun t => (t.gpr.get16 .ax, cosz t)) =
      some (0x8000, [false, true, true, false, true]) := by decide
theorem test_inc_memory : gives [0xFE, 0x06, 0x00, 0x03] (boot |> at_ 0x300 [0xFF]) (fun t => (m 1 0x300 t, cosz t)) =
      some (0, [true, false, false, true, true]) := by decide
theorem test_inc_preserved_carry :
    gives [0xFE, 0xC0]
      ({ boot with params := { Params.default with incDecCf := .preserved } } |> r8 .ax 0xFF)
      (fun t => (t.gpr.get8 .ax, cosz t)) =
      some (0, [false, false, false, true, true]) := by decide
theorem test_dec_byte : gives [0xFE, 0xC8] (boot) (fun t => (t.gpr.get8 .ax, cosz t)) =
      some (0xFF, [true, false, true, false, true]) := by decide
theorem test_dec_word : gives [0x48] (boot |> r16 .ax 0x8000) (fun t => (t.gpr.get16 .ax, cosz t)) =
      some (0x7FFF, [false, true, false, false, true]) := by decide
theorem test_neg_byte : gives [0xF6, 0xD8] (boot |> r8 .ax 0x80) (fun t => (t.gpr.get8 .ax, cosz t)) =
      some (0x80, [true, true, true, false, false]) := by decide
theorem test_neg_zero : gives [0xF6, 0xD8] (boot |> fl 1) (fun t => (t.gpr.get8 .ax, cosz t)) =
      some (0, [false, false, false, true, true]) := by decide
theorem test_not_keeps_flags :
    gives [0xF7, 0xD0] (boot |> r16 .ax 0x00FF |> fl 0x0FD5) (fun t => (t.gpr.get16 .ax, t.flags.image)) =
      some (0xFF00, 0x0FD5) := by decide
theorem test_mul_byte : gives [0xF6, 0xE3] (boot |> r8 .ax 0x80 |> r8 .bx 2) (fun t => (t.gpr.get16 .ax, cosz t)) =
      some (0x0100, [true, true, false, false, false]) := by decide
theorem test_mul_word :
    gives [0xF7, 0xE3] (boot |> r16 .ax 0xFFFF |> r16 .bx 0xFFFF) (fun t => (t.gpr.get16 .ax, t.gpr.get16 .dx, t.flags.CF)) =
      some (1, 0xFFFE, true) := by decide
theorem test_imul_byte :
    gives [0xF6, 0xEB] (boot |> r8 .ax 0x80 |> r8 .bx 0xFF) (fun t => (t.gpr.get16 .ax, t.flags.CF, t.flags.OF)) =
      some (0x0080, true, true) := by decide
theorem test_imul_word :
    gives [0xF7, 0xEB] (boot |> r16 .ax 0xFFFF |> r16 .bx 2) (fun t => (t.gpr.get16 .ax, t.gpr.get16 .dx, t.flags.CF)) =
      some (0xFFFE, 0xFFFF, false) := by decide
theorem test_div_byte :
    gives [0xF6, 0xF3] (boot |> r16 .ax 0x01FF |> r8 .bx 2) (fun t => (t.gpr.get8 .ax, t.gpr.get8 .sp)) =
      some (0xFF, 1) := by decide
theorem test_div_error :
    gives [0xF6, 0xF3] (boot |> r16 .ax 0x0200 |> r8 .bx 2) (fun t => (t.gpr.get16 .ax, t.ip, t.fault)) =
      some (0x0200, 0x0100, some ⟨.divideError, 0, 0x0100⟩) := by decide
theorem test_idiv_byte :
    gives [0xF6, 0xFB] (boot |> r16 .ax 0xFFF9 |> r8 .bx 0xFE) (fun t => (t.gpr.get8 .ax, t.gpr.get8 .sp)) =
      some (3, 0xFF) := by decide
theorem test_idiv_error :
    gives [0xF6, 0xFB] (boot |> r16 .ax 0xFF80 |> r8 .bx 0xFF) (fun t => (t.gpr.get16 .ax, t.fault.isSome)) =
      some (0xFF80, true) := by decide
theorem test_idiv_word :
    gives [0xF7, 0xF9]
      (boot |> r16 .ax 0xFFF9 |> r16 .dx 0xFFFF |> r16 .cx 3)
      (fun t => (t.gpr.get16 .ax, t.gpr.get16 .dx)) =
      some (0xFFFE, 0xFFFF) := by decide
theorem test_cbw : gives [0x98] (boot |> r8 .ax 0x80) (fun t => t.gpr.get16 .ax) =
      some 0xFF80 := by decide
theorem test_cwde : gives [0x66, 0x98] (boot |> r16 .ax 0xFFFE) (fun t => t.gpr.get .ax) =
      some 0xFFFFFFFE := by decide
theorem test_cwd : gives [0x99] (boot |> r16 .ax 0x8000) (fun t => (t.gpr.get16 .dx, t.gpr.get16 .ax)) =
      some (0xFFFF, 0x8000) := by decide
theorem test_cdq : gives [0x66, 0x99] (boot |> r32 .ax 0x80000000) (fun t => t.gpr.get .dx) =
      some 0xFFFFFFFF := by decide
theorem test_shl_by_one :
    gives [0xD1, 0xE0] (boot |> r16 .ax 0x8001) (fun t => (t.gpr.get16 .ax, t.flags.CF, t.flags.OF)) =
      some (2, true, true) := by decide
theorem test_shl_by_eight :
    gives [0xC0, 0xE0, 0x08] (boot |> r8 .ax 0x81) (fun t => (t.gpr.get8 .ax, t.flags.CF, t.flags.ZF)) =
      some (0, true, true) := by decide
theorem test_shl_masked_count_zero :
    gives [0xD3, 0xE0] (boot |> r16 .ax 0x1234 |> r8 .cx 0x20 |> fl 0x0FD5) (fun t => (t.gpr.get16 .ax, t.flags.image)) =
      some (0x1234, 0x0FD5) := by decide
theorem test_shr_by_nine : gives [0xC0, 0xE8, 0x09] (boot |> r8 .ax 0x80) (fun t => (t.gpr.get8 .ax, t.flags.CF)) =
      some (0, false) := by decide
theorem test_shr_overflow : gives [0xD1, 0xE8] (boot |> r16 .ax 0x8000) (fun t => (t.gpr.get16 .ax, cosz t)) =
      some (0x4000, [false, true, false, false, true]) := by decide
theorem test_sar_by_cl : gives [0xD2, 0xF8] (boot |> r8 .ax 0x80 |> r8 .cx 3) (fun t => (t.gpr.get8 .ax, t.flags.CF)) =
      some (0xF0, false) := by decide
theorem test_sar_saturates : gives [0xC0, 0xF8, 0x1F] (boot |> r8 .ax 0x80) (fun t => (t.gpr.get8 .ax, t.flags.CF)) =
      some (0xFF, true) := by decide
theorem test_rol_dword : gives [0x66, 0xC1, 0xC0, 0x10] (boot |> r32 .ax 0x1234) (fun t => (t.gpr.get .ax, t.flags.CF)) =
      some (0x12340000, false) := by decide
theorem test_rol_keeps_result_flags :
    gives [0xD0, 0xC0] (boot |> r8 .ax 0x80 |> fl 0x00C4) (fun t => (t.gpr.get8 .ax, cosz t)) =
      some (1, [true, true, true, true, true]) := by decide
theorem test_ror_by_four : gives [0xC1, 0xC8, 0x04] (boot |> r16 .ax 0x1234) (fun t => (t.gpr.get16 .ax, t.flags.CF)) =
      some (0x4123, false) := by decide
theorem test_ror_by_one : gives [0xD0, 0xC8] (boot |> r8 .ax 1) (fun t => (t.gpr.get8 .ax, t.flags.CF, t.flags.OF)) =
      some (0x80, true, true) := by decide
theorem test_rcl_by_eight :
    gives [0xC0, 0xD0, 0x08] (boot |> r8 .ax 0x55 |> fl 1) (fun t => (t.gpr.get8 .ax, t.flags.CF)) =
      some (0xAA, true) := by decide
theorem test_rcl_reduced_count_zero :
    gives [0xC0, 0xD0, 0x09] (boot |> r8 .ax 0x81 |> fl 0x0800) (fun t => (t.gpr.get8 .ax, t.flags.image)) =
      some (0x81, 0x0800) := by decide
theorem test_rcr_by_one :
    gives [0xD0, 0xD8] (boot |> r8 .ax 0x80 |> fl 1) (fun t => (t.gpr.get8 .ax, t.flags.CF, t.flags.OF)) =
      some (0xC0, false, false) := by decide
theorem test_rcr_by_two : gives [0xC1, 0xD8, 0x02] (boot |> r16 .ax 3) (fun t => (t.gpr.get16 .ax, t.flags.CF)) =
      some (0x8000, true) := by decide
theorem test_clc : gives [0xF8] (boot |> fl 0x0FD5) (fun t => t.flags.image) =
      some 0x0FD4 := by decide
theorem test_stc : gives [0xF9] (boot) (fun t => t.flags.image) =
      some 1 := by decide
theorem test_cmc : gives [0xF5] (boot |> fl 0x0FD5) (fun t => t.flags.image) =
      some 0x0FD4 := by decide
theorem test_cld : gives [0xFC] (boot |> fl 0x0FD5) (fun t => t.flags.image) =
      some 0x0BD5 := by decide
theorem test_std : gives [0xFD] (boot) (fun t => t.flags.image) =
      some 0x0400 := by decide
theorem test_cli : gives [0xFA] (boot |> fl 0x0FD5) (fun t => t.flags.image) =
      some 0x0DD5 := by decide
theorem test_sti : gives [0xFB] (boot) (fun t => t.flags.image) =
      some 0x0200 := by decide
theorem test_lahf : gives [0x9F] (boot |> fl 0x0FD5) (fun t => t.gpr.get8 .sp) =
      some 0x55 := by decide
theorem test_sahf : gives [0x9E] (boot |> r8 .sp 0 |> fl 0x00D5) (fun t => t.flags.image) =
      some 0x0080 := by decide
theorem test_pushf : gives [0x9C] (boot |> r16 .sp 0x0100 |> fl 0x0201) (fun t => (t.gpr.get16 .sp, m 2 0xFE t)) =
      some (0x00FE, 0x0201) := by decide
theorem test_popf :
    gives [0x9D] (boot |> r16 .sp 0x0200 |> at_ 0x200 [0xFF, 0xFF]) (fun t => (t.gpr.get16 .sp, t.flags.image)) =
      some (0x0202, 0x0FD5) := by decide
theorem test_jcxz_taken : gives [0xE3, 0x10] (boot) (fun t => t.ip) =
      some 0x0112 := by decide
theorem test_loop_wraps_cx : gives [0xE2, 0xEE] (boot) (fun t => (t.ip, t.gpr.get16 .cx)) =
      some (0x00F0, 0xFFFF) := by decide
theorem test_loope_not_taken : gives [0xE1, 0xEE] (boot |> r16 .cx 3) (fun t => (t.ip, t.gpr.get16 .cx)) =
      some (0x0102, 2) := by decide
theorem test_loopne_last : gives [0xE0, 0xEE] (boot |> r16 .cx 1) (fun t => (t.ip, t.gpr.get16 .cx)) =
      some (0x0102, 0) := by decide
theorem test_jmp_short_wraps : gives [0xEB, 0x00] (boot.setIp 0xFFFE) (fun t => t.ip) =
      some 0 := by decide
theorem test_jmp_near : gives [0xE9, 0xFD, 0xFF] (boot.setIp 0) (fun t => t.ip) =
      some 0 := by decide
theorem test_jz_back : gives [0x74, 0x80] (boot |> fl 0x40) (fun t => t.ip) =
      some 0x0082 := by decide
theorem test_jmp_far : gives [0xEA, 0x10, 0x00, 0x00, 0x20] (boot) (fun t => (t.sreg.cs, t.ip)) =
      some (0x2000, 0x0010) := by decide
theorem test_jmp_far_indirect :
    gives [0xFF, 0x2E, 0x00, 0x03] (boot |> at_ 0x300 [0x10, 0x00, 0x00, 0x20]) (fun t => (t.sreg.cs, t.ip)) =
      some (0x2000, 0x0010) := by decide
theorem test_call_near :
    gives [0xE8, 0xFD, 0x00] (boot |> r16 .sp 0x0100) (fun t => (t.ip, t.gpr.get16 .sp, m 2 0xFE t)) =
      some (0x0200, 0x00FE, 0x0103) := by decide
theorem test_call_far :
    gives [0x9A, 0x10, 0x00, 0x00, 0x20]
      (boot |> r16 .sp 0x0100 |> sr .cs 0x1000)
      (fun t => (t.sreg.cs, t.ip, t.gpr.get16 .sp, m 4 0xFC t)) =
      some (0x2000, 0x0010, 0x00FC, 0x10000105) := by decide
theorem test_ret_release :
    gives [0xC2, 0x04, 0x00] (boot |> r16 .sp 0x00FA |> at_ 0xFA [0x03, 0x01]) (fun t => (t.ip, t.gpr.get16 .sp)) =
      some (0x0103, 0x0100) := by decide
theorem test_retf :
    gives [0xCB]
      (boot |> r16 .sp 0x00FC |> at_ 0xFC [0x05, 0x01, 0x00, 0x10])
      (fun t => (t.sreg.cs, t.ip, t.gpr.get16 .sp)) =
      some (0x1000, 0x0105, 0x0100) := by decide
theorem test_int_entry :
    gives [0xCD, 0x21]
      (boot |> r16 .sp 0x0100 |> sr .cs 0x1000 |> fl 0x0201 |> at_ 0x84 [0x00, 0x05])
      (fun t => (t.sreg.cs, t.ip, t.gpr.get16 .sp, t.flags.image, m 6 0xFA t)) =
      some (0, 0x0500, 0x00FA, 1, 0x020110000102) := by decide
theorem test_into_not_taken : gives [0xCE] (boot) (fun t => (t.ip, t.gpr.get16 .sp)) =
      some (0x0101, 0) := by decide
theorem test_into_taken :
    gives [0xCE] (boot |> r16 .sp 0x0100 |> fl 0x0800 |> at_ 0x10 [0x00, 0x06]) (fun t => (t.ip, m 2 0xFA t)) =
      some (0x0600, 0x0101) := by decide
theorem test_int3_vector :
    gives [0xCC] (boot |> r16 .sp 0x0100 |> at_ 0x0C [0x34, 0x12, 0x00, 0x30]) (fun t => (t.sreg.cs, t.ip)) =
      some (0x3000, 0x1234) := by decide
theorem test_iret :
    gives [0xCF]
      (boot |> r16 .sp 0x00FA |> at_ 0xFA [0x01, 0x01, 0x00, 0x10, 0x02, 0x02])
      (fun t => (t.sreg.cs, t.ip, t.flags.image, t.gpr.get16 .sp)) =
      some (0x1000, 0x0101, 0x0200, 0x0100) := by decide
theorem test_hlt : gives [0xF4] (boot.setIp 0x0108) (fun t => (t.ip, t.halted)) =
      some (0x0109, true) := by decide
theorem test_movsb_wraps :
    gives [0xA4]
      (boot |> r16 .si 0xFFFF |> r16 .di 0x0300 |> at_ 0xFFFF [0x41])
      (fun t => (m 1 0x300 t, t.gpr.get16 .si, t.gpr.get16 .di)) =
      some (0x41, 0, 0x0301) := by decide
theorem test_movsw_backwards :
    gives [0xA5] (boot |> r16 .si 0x0200 |> r16 .di 0x0300 |> fl 0x0400) (fun t => (t.gpr.get16 .si, t.gpr.get16 .di)) =
      some (0x01FE, 0x02FE) := by decide
theorem test_cmpsb :
    gives [0xA6] (boot |> r16 .si 0x0200 |> r16 .di 0x0300 |> at_ 0x200 [0x41] |> at_ 0x300 [0x42]) (fun t => cosz t) =
      some [true, false, true, false, true] := by decide
theorem test_scasb :
    gives [0xAE] (boot |> r8 .ax 0x42 |> r16 .di 0x0300 |> at_ 0x300 [0x42]) (fun t => (t.flags.ZF, t.gpr.get16 .di)) =
      some (true, 0x0301) := by decide
theorem test_stosw_backwards :
    gives [0xAB] (boot |> r16 .ax 0x1234 |> r16 .di 0x0300 |> fl 0x0400) (fun t => (m 2 0x300 t, t.gpr.get16 .di)) =
      some (0x1234, 0x02FE) := by decide
theorem test_lodsb :
    gives [0xAC] (boot |> r8 .sp 0x77 |> r16 .si 0x0200 |> at_ 0x200 [0x41]) (fun t => (t.gpr.get16 .ax, t.gpr.get16 .si)) =
      some (0x7741, 0x0201) := by decide
theorem test_rep_movsb :
    gives [0xF3, 0xA4]
      (boot |> r16 .cx 5 |> r16 .si 0x0200 |> r16 .di 0x0300 |> at_ 0x200 [1, 2, 3, 4, 5])
      (fun t => (m 5 0x300 t, t.gpr.get16 .cx, t.gpr.get16 .si, t.gpr.get16 .di)) =
      some (0x0504030201, 0, 0x0205, 0x0305) := by decide
theorem test_repne_scasb :
    gives [0xF2, 0xAE]
      (boot |> r16 .cx 0x10 |> r16 .di 0x0200 |> at_ 0x200 [0x41, 0x42, 0x00])
      (fun t => (t.flags.ZF, t.gpr.get16 .cx, t.gpr.get16 .di)) =
      some (true, 0x000D, 0x0203) := by decide
theorem test_repe_cmpsb :
    gives [0xF3, 0xA6]
      (boot |> r16 .cx 5 |> r16 .si 0x0200 |> r16 .di 0x0300 |> at_ 0x200 [0x41, 0x42] |> at_ 0x300 [0x41, 0x43])
      (fun t => (t.gpr.get16 .cx, t.flags.ZF, t.flags.CF, t.gpr.get16 .si)) =
      some (3, false, true, 0x0202) := by decide
theorem test_rep_stosb_none :
    gives [0xF3, 0xAA] (boot |> r8 .ax 7 |> r16 .di 0x0300) (fun t => (m 1 0x300 t, t.ip, t.gpr.get16 .di)) =
      some (0, 0x0102, 0x0300) := by decide
theorem test_movsb_override :
    gives [0x26, 0xA4] (boot |> sr .es 0x1000 |> r16 .di 0x0300 |> at_ 0x10000 [0x55]) (fun t => (m 1 0x10300 t, t.ip)) =
      some (0x55, 0x0102) := by decide
theorem test_mov_disp8 :
    gives [0x8A, 0x40, 0x05] (boot |> r16 .bx 0x0100 |> r16 .si 0x0010 |> at_ 0x115 [0x99]) (fun t => t.gpr.get8 .ax) =
      some 0x99 := by decide
theorem test_mov_moffs : gives [0xA1, 0x00, 0x03] (boot |> at_ 0x300 [0xEF, 0xBE]) (fun t => t.gpr.get16 .ax) =
      some 0xBEEF := by decide
theorem test_mov_high_byte : gives [0xB4, 0x12] (boot |> r32 .ax 0xFFFFFFFF) (fun t => t.gpr.get .ax) =
      some 0xFFFF12FF := by decide
theorem test_mov_word_keeps_upper_half : gives [0xB8, 0x00, 0x00] (boot |> r32 .ax 0xFFFFFFFF) (fun t => t.gpr.get .ax) =
      some 0xFFFF0000 := by decide
theorem test_mov_to_segment : gives [0x8E, 0xD8] (boot |> r16 .ax 0x2000) (fun t => t.sreg.ds) =
      some 0x2000 := by decide
theorem test_mov_word_across_0xFFFF :
    gives [0xA1, 0xFF, 0xFF] (boot |> at_ 0xFFFF [0x34, 0x12]) (fun t => t.gpr.get16 .ax) =
      some 0x1234 := by decide
theorem test_mov_out_of_memory : gives [0xA0, 0x10, 0x00] (boot |> sr .ds 0xFFFF) (fun t => (t.fault, t.ip)) =
      some (some ⟨.memoryFault 0x100000 1 .read, 0, 0x0100⟩, 0x0100) := by decide
theorem test_mov_bp_default_ds :
    gives [0x8B, 0x46, 0x04] (boot |> sr .ds 0x1000 |> r16 .bp 0x0200 |> at_ 0x10204 [0x21]) (fun t => t.gpr.get16 .ax) =
      some 0x21 := by decide
theorem test_mov_bp_default_ss :
    gives [0x8B, 0x46, 0x04]
      ({ boot with params := { Params.default with bpDefaultSeg := .ss } } |> sr .ss 0x2000 |> r16 .bp 0x0200 |> at_ 0x20204 [0x43])
      (fun t => t.gpr.get16 .ax) =
      some 0x43 := by decide
theorem test_xchg_memory :
    gives [0x86, 0x07] (boot |> r16 .bx 0x0300 |> r8 .ax 0x11 |> at_ 0x300 [0x22]) (fun t => (t.gpr.get8 .ax, m 1 0x300 t)) =
      some (0x22, 0x11) := by decide
theorem test_xchg_accumulator :
    gives [0x93] (boot |> r16 .ax 1 |> r16 .bx 2) (fun t => (t.gpr.get16 .ax, t.gpr.get16 .bx)) =
      some (2, 1) := by decide
theorem test_nop : gives [0x90] (boot) (fun t => (t.ip, t.gpr)) =
      some (0x0101, boot.gpr) := by decide
theorem test_lea_wraps :
    gives [0x8D, 0x80, 0x00, 0xFF] (boot |> r16 .bx 0x0100 |> r16 .si 0x0020) (fun t => t.gpr.get16 .ax) =
      some 0x0020 := by decide
theorem test_les :
    gives [0xC4, 0x3E, 0x00, 0x03] (boot |> at_ 0x300 [0x10, 0x00, 0x00, 0x20]) (fun t => (t.gpr.get16 .di, t.sreg.es)) =
      some (0x0010, 0x2000) := by decide
theorem test_lds :
    gives [0xC5, 0x37]
      (boot |> r16 .bx 0x0300 |> at_ 0x300 [0x10, 0x00, 0x00, 0x20])
      (fun t => (t.gpr.get16 .si, t.sreg.ds)) =
      some (0x0010, 0x2000) := by decide
theorem test_lss :
    gives [0x0F, 0xB2, 0x26, 0x00, 0x03]
      (boot |> at_ 0x300 [0x00, 0x01, 0x00, 0x30])
      (fun t => (t.gpr.get16 .sp, t.sreg.ss)) =
      some (0x0100, 0x3000) := by decide
theorem test_xlat : gives [0xD7] (boot |> r16 .bx 0x0300 |> r8 .ax 2 |> at_ 0x302 [0x63]) (fun t => t.gpr.get8 .ax) =
      some 0x63 := by decide
theorem test_push_sp : gives [0x54] (boot |> r16 .sp 0x0100) (fun t => (t.gpr.get16 .sp, m 2 0xFE t)) =
      some (0x00FE, 0x0100) := by decide
theorem test_push_wraps :
    gives [0x50] (boot |> r16 .ax 0x1234 |> sr .ss 0x1000) (fun t => (t.gpr.get16 .sp, m 2 0x1FFFE t)) =
      some (0xFFFE, 0x1234) := by decide
theorem test_pop_memory :
    gives [0x8F, 0x07]
      (boot |> r16 .bx 0x0300 |> r16 .sp 0x00FE |> at_ 0xFE [0xEF, 0xBE])
      (fun t => (m 2 0x300 t, t.gpr.get16 .sp)) =
      some (0xBEEF, 0x0100) := by decide
theorem test_pop_segment :
    gives [0x1F] (boot |> r16 .sp 0x00FE |> at_ 0xFE [0x00, 0x20]) (fun t => (t.sreg.ds, t.gpr.get16 .sp)) =
      some (0x2000, 0x0100) := by decide
theorem test_divide_error_clears_override :
    gives [0x26, 0xF6, 0x37] (boot |> r16 .ax 0x1234) (fun t => (t.fault, t.pre, t.ip)) =
      some (some ⟨.divideError, 0, 0x0100⟩, ({} : Prefixes), 0x0100) := by decide
theorem test_fetch_outside_memory : gives [] (boot.setIp 0x0010 |> sr .cs 0xFFFF) (fun t => (t.fault, t.ip)) =
      some (some ⟨.memoryFault 0x100000 1 .fetch, 0xFFFF, 0x0010⟩, 0x0010) := by decide
theorem test_unhandled_record : gives [0x66, 0x50] (boot |> r16 .sp 0x0100) (fun t => (t.fault, t.gpr.get16 .sp)) =
      some (some ⟨.unhandledOpcode [0x66, 0x50], 0, 0x0100⟩, 0x0100) := by decide
theorem test_conditional_jumps_after_compare :
    ([(0x03, 0x05, "0110011010011010"), (0x05, 0x03, "0101010101010101"), (0x05, 0x05, "0101101001100110"),
      (0x80, 0x01, "1001010101011010"), (0x01, 0x80, "1010011010100101"), (0xFF, 0x01, "0101010110011010"),
      (0x7F, 0xFF, "1010011010010101"), (0x00, 0x03, "0110011010011010")] : List (Byte × Byte × String)).all
      (fun r =>
        let s := boot.setFlags (compareFlags (r.1 : BitVec Width.w8.bits) r.2.1 boot.flags)
        (List.range 16).all fun j => gives [BitVec.ofNat 8 (0x70 + j), 0x10] s (·.ip) ==
          some (if r.2.2.toList[j]? == some '1' then 0x0112 else 0x0102)) = true := by decide

/-! ## The host's accessors and the assembler (20_memory.md R81, 30_encoding.md R182-R188, 95_test_vectors.md 2.12) -/

theorem test_set_bits : (setBits 0 0x300 0x81 (boot |> at_ 0x300 [0x10])).toOption.map (m 1 0x300) = some 0x91 := by decide
theorem test_accessor_bound : (getByte 0xFFFF 0x0010 boot).toOption = none ∧ (getByte 0xFFFF 0x000F boot).toOption = some 0 := by
  decide
theorem test_resolver :
    (resolve [.reg .bx, .reg .si, .num 0x90]).toOption = some (.disp8 .bxSi 0x90) ∧
    (resolve [.num 5]).toOption = some (.direct 5) ∧ (resolve [.reg .si, .reg .bx]).toOption = some (.base .bxSi) ∧
    ([[.reg .bp], [.reg .bx, .reg .bp], [.reg .si, .reg .di], [.reg .bx, .num 5, .num 6], [.reg .cx]].all fun ts =>
      (resolve ts).toOption.isNone) = true := by decide
theorem test_assemble :
    (assemble 0 ⟨none, "INC", [.reg16 .ax]⟩).toOption = some [[0x40]] ∧
    (assemble 0 ⟨none, "DEC", [.reg16 .di]⟩).toOption = some [[0x4F]] ∧
    (assemble 0 ⟨none, "DB", [.text [0x41, 0x42]]⟩).toOption = some [[0x41, 0x42]] ∧
    (assemble 0 ⟨none, "ADD", [.reg16 .ax, .mem none [.reg .bx, .reg .si, .num 5]]⟩).toOption = some [[0x03, 0x40, 0x05]] ∧
    (assemble 0 ⟨none, "MOV", [.reg16 .ax, .mem none [.reg .si, .num 300]]⟩).toOption = some [[0x8B, 0x84, 0x2C, 0x01]] := by
  decide
theorem test_assemble_jumps :
    (assemble 0x0100 ⟨none, "JMP", [.num 0x0105]⟩).toOption = some [[0xEB, 0x03]] ∧
    (assemble 0x0100 ⟨none, "JMP", [.num 0x0200]⟩).toOption = some [[0xE9, 0xFD, 0x00]] ∧
    (assemble 0x0100 ⟨none, "JZ", [.num 0x0200]⟩).toOption = none := by decide

/-- A spelling for the tests of text: `0x` with upper-case hexadecimal digits or decimal digits, and BYTE, WORD, DWORD and FWORD as tags. The
spec's own examples use hexadecimal; the model fixes no spelling. -/
def sampleSyntax : AsmSyntax :=
  let digits : List Char := "0123456789ABCDEF".toList
  let number (base : Nat) (cs : List Char) : Option Int :=
    if cs.isEmpty || !cs.all (fun c => (digits.take base).contains c) then none
    else some (cs.foldl (fun v c => v * base + digits.idxOf c) 0 : Nat)
  { number := fun cs => match cs with | '0' :: 'x' :: ds => number 16 ds | _ => number 10 cs
    widthTag := fun cs => ([("BYTE", 8), ("WORD", 16), ("DWORD", 32), ("FWORD", 48)].find? fun x => x.1.toList == cs).map (·.2) }

/-- What a line of text assembles to at offset 0x0100. -/
def text (line : String) : Option (List (List Byte)) := (assembleText sampleSyntax 0x0100 line.toList).toOption

theorem test_text_operands :
    text "XCHG AL, [BX]" = some [[0x86, 0x07]] ∧ text "MOV BYTE [0x0300], 0x7F" = some [[0xC6, 0x06, 0x00, 0x03, 0x7F]] ∧
    text "ADD AX, [BX+SI+5]" = some [[0x03, 0x40, 0x05]] ∧ text "INC AX" = some [[0x40]] ∧ text "RET" = some [[0xC3]] ∧
    text "MOV AX, [BP]" = none ∧ text "MOV AX, [BX" = none ∧ text "FOO AX" = none := by decide
theorem test_text_prefixes :
    text "LOOPNZ 0x0100" = some [[0xE0, 0xFE]] ∧ text "LOOPZ 0x0100" = some [[0xE1, 0xFE]] ∧
    text "REP MOVSB" = some [[0xF3, 0xA4]] ∧ (text "REP ES: MOVSB" == some [[0x26, 0xF3, 0xA4], [0xF3, 0x26, 0xA4]]) = true ∧
    text "JMP 0x2000:0x0010" = some [[0xEA, 0x10, 0x00, 0x00, 0x20]] := by decide
theorem test_text_far_pointers :
    text "LES DI, BYTE [BX]" = none ∧ text "LES DI, WORD [BX]" = none ∧ text "LES DI, DWORD [0x0300]" = some [[0xC4, 0x3E, 0, 3]] ∧
    text "LDS SI, [BX]" = some [[0xC5, 0x37]] ∧ text "LDS ESI, DWORD [BX]" = none ∧
    text "LDS ESI, FWORD [BX]" = some [[0x66, 0xC5, 0x37]] ∧ text "JMP WORD [BX]" = some [[0xFF, 0x27]] ∧
    text "JMP DWORD [BX]" = some [[0xFF, 0x2F]] ∧ text "LEA SI, BYTE [BX+DI+0x10]" = some [[0x8D, 0x71, 0x10]] := by decide
theorem test_text_equivalents :
    text "XCHG AX, AX" = some [[0x87, 0xC0], [0x90]] ∧ text "XCHG EAX, EAX" = some [[0x66, 0x87, 0xC0], [0x66, 0x90]] ∧
    (text "XCHG BX, AX").map (·.contains [0x93]) = some true ∧
    text "REP MOVSD" = some [[0x66, 0xF3, 0xA5], [0xF3, 0x66, 0xA5]] ∧ (text "REP ES: MOVSD").map (·.length) = some 6 ∧
    text "JMP 0x10000" = none ∧ text "CALL 0x10000" = none := by decide
theorem test_text_data :
    text ("DB \x22A,B\x22, 0x0D") = some [[0x41, 0x2C, 0x42, 0x0D]] ∧ text "DB" = none ∧ text "DB 256" = none ∧
    text "REP DB 1" = none ∧
    (assembleOnto sampleSyntax 0x0100 [0x90] "LOOP 0x0101".toList).toOption = some [[0x90, 0xE2, 0xFE]] := by decide

theorem test_table_word : decodeTableWord 8 0x40 = some (.incReg .o16 .ax) ∧ decodeTableWord 16 0x10FF = some
    (.callEv (.mem ⟨none, .base .bxSi⟩)) ∧ decodeTableWord 8 0xD4 = none := by decide
theorem test_with_fetch_word :
    (match step (State.reset.withFetchWord 8 0x40) with | .next t => t.gpr.get16 .ax == 1 && t.ip == 1 | _ => false) = true := by
  decide

/-! ## Witnesses: for each obligation with hypotheses, data that meets them, each clause at a boundary -/

/-- Data and stack segment at the top of memory: DS:FFFE and SS:FFFE hold the last word of memory, DS:FFFF its last byte. -/
def edge : State := boot |> sr .ds 0xF000 |> sr .es 0xF000 |> sr .ss 0xF000

/-- DS, ES and SS at 0xFFFF: offset 0x0010 is the first address outside memory. -/
def beyond : State := boot |> sr .ds 0xFFFF |> sr .es 0xFFFF |> sr .ss 0xFFFF

/-- The last word of memory, as an `E` operand. -/
def lastWord : RM := .mem ⟨none, .direct 0xFFFE⟩

/-- The last byte of memory, as an `E` operand. -/
def lastByte : RM := .mem ⟨none, .direct 0xFFFF⟩

/-- The first byte outside memory, as an `E` operand of `beyond`. -/
def outside : RM := .mem ⟨none, .direct 0x0010⟩

/-- Whether the instruction completes without a fault. -/
def completes (i : Instr) (s : State) : Bool :=
  match exec i s with
  | .next t => t.fault.isNone
  | _ => false

/-- The fault the instruction ends in. -/
def faultOf (i : Instr) (s : State) : Option FaultInfo :=
  match exec i s with
  | .next t => t.fault.map (·.info)
  | _ => none

/-- Whether the instruction ends in a fault. -/
def faultsAt (i : Instr) (s : State) : Bool :=
  match exec i s with
  | .next t => t.fault.isSome
  | _ => false

theorem accessible_mem {w : Width} {seg : SReg} {off : Word} {s : State} (h : inMemory (s.addr seg off) w.bytes s) :
    accessible w (.mem seg off) s := h
theorem not_accessible_mem {w : Width} {seg : SReg} {off : Word} {s : State} (h : ¬ inMemory (s.addr seg off) w.bytes s) :
    ¬ accessible w (.mem seg off) s := h

theorem witness_DecodeEncode :
    let i := Instr.addEvIv .o32 (.mem ⟨some .gs, .disp16 .bpDi 0xFFFF⟩) 0xFFFFFFFF
    i.wf = true ∧ i.asPrefix = none ∧ (encode i).length = 10 := by decide
theorem witness_DecodedUnitReencodes : decodeUnit {} [0x81, 0xC7, 0xFF, 0xFF, 0x00] = .ok (.addEvIv .o16 (.reg .di) 0xFFFF) 4 := by
  decide
theorem witness_RefusedEncodings :
    (0x67#8 ∈ ([0x27, 0x67] : List Byte)) ∧ (0x08#8).extractLsb' 3 3 ≠ 0#3 ∧ (0x38#8).extractLsb' 3 3 ≠ 0#3 ∧
    (0x30#8).extractLsb' 3 3 = 6#3 ∧ (0xC8#8).extractLsb' 3 3 = 1#3 ∧ (0x10#8).extractLsb' 3 3 ≠ 1#3 ∧
    (0xFF#8).extractLsb' 3 3 = 7#3 ∧ 0xB3#8 ∉ ([0xB2, 0xB4, 0xB5] : List Byte) := by decide
theorem witness_MalformedRows :
    (0xC0#8).extractLsb' 6 2 = 3#2 ∧ (0xBF#8).extractLsb' 6 2 ≠ 3#2 ∧ (0xD8#8).extractLsb' 3 3 = 3#3 ∧
    (0xE8#8).extractLsb' 3 3 = 5#3 ∧ (0x30#8).extractLsb' 3 3 = 6#3 ∧ (0x38#8).extractLsb' 3 3 = 7#3 ∧
    (0x08#8).extractLsb' 3 3 = 1#3 ∧ (0x28#8).extractLsb' 3 3 = 5#3 ∧
    decodeUnit { osz := .o32 } [0x0F, 0xB5, 0xFF] = .malformed 3 ∧ decodeUnit { osz := .o32 } [0xC5, 0xC0] = .malformed 2 ∧
    decodeUnit { segOvr := some .gs } [0xFF, 0xDF] = .malformed 2 ∧ decodeUnit {} [0x8C, 0x38] = .malformed 2 ∧
    decodeUnit {} [0x8E, 0xC8] = .malformed 2 := by decide
theorem witness_OperandSizeRows :
    0x01#8 ∉ prefixBytes ∧ admitsOperandSize 0x01 0xC0 = true ∧ admitsOperandSize 0xF7 0x38 = true ∧
    0x00#8 ∉ prefixBytes ∧ admitsOperandSize 0x00 0xC0 = false ∧ admitsOperandSize 0xF7 0x08 = false ∧
    admitsOperandSize 0xFF 0x10 = false ∧ 8 ≤ (List.replicate 8 0#8).length := by decide
theorem witness_RepetitionRows :
    0xA4#8 ∈ ([0xA4, 0xA5, 0xAA, 0xAB, 0xAC, 0xAD] : List Byte) ∧ 0xAF#8 ∈ ([0xA6, 0xA7, 0xAE, 0xAF] : List Byte) ∧
    0xA8#8 ∉ ([0xA4, 0xA5, 0xAA, 0xAB, 0xAC, 0xAD, 0xA6, 0xA7, 0xAE, 0xAF] : List Byte) ∧ 0xA8#8 ∉ prefixBytes ∧
    0xAD#8 ∈ ([0xA5, 0xAB, 0xAD] : List Byte) ∧ 0xA7#8 ∈ ([0xA7, 0xAF] : List Byte) ∧
    0xA4#8 ∉ ([0xA5, 0xAB, 0xAD, 0xA7, 0xAF] : List Byte) ∧ 0xA4#8 ∉ prefixBytes ∧
    (([[0x66, 0xF3, 0x90], [0x66, 0xF3, 0xA4], [0xF2, 0x66, 0xA5], [0x66, 0xF3, 0x8B, 0xC0], [0xF3, 0x66, 0xAE]] :
      List (List Byte)).all fun bs => match decode bs with | .unhandled _ => true | _ => false) = true ∧
    decode [0x66, 0xF3, 0xAD] = .ok (.repLodsd none) 3 ∧ decode [0xF2, 0x66, 0xA7] = .ok (.repneCmpsd none) 3 := by decide
theorem witness_LengthLimit :
    decode [0x90] = .ok (.nop .o16) 1 ∧ decode (List.replicate 14 0x66 ++ [0x90]) = .ok (.nop .o32) 15 ∧
    15 ≤ (List.replicate 15 0x90#8).length ∧ (List.replicate 15 Prefix.opSize).length = 15 ∧
    (List.replicate 14 Prefix.opSize).length = 14 ∧ 15 ≤ (List.replicate 14 0x66#8 ++ [0x8B, 0xC0]).length ∧
    decodeUnits maxLength {} ((List.replicate 14 0x66#8 ++ [0x8B, 0xC0]).take 15) 0 = .short 15 ∧
    decodeUnits maxLength {} ((List.replicate 11 0x26#8 ++ [0x81, 0x06, 0, 3, 0x12, 0x34]).take 15) 0 = .short 15 := by decide
theorem witness_StepRunsDecoded :
    let s := boot.withBytes 0 [0x05, 0x21, 0x00]
    s.running ∧ (Instr.addEaxIv .o16 0x21).asPrefix = none ∧
      decodeUnit {} (fetchWindow s.beginInstr) = .ok (.addEaxIv .o16 0x21) 3 := by decide
theorem witness_StepRunsPrefixed :
    let s := boot.withBytes 0 [0xF3, 0x26, 0xA4]
    s.running ∧ decode (fetchWindow s.beginInstr) = .ok (.repMovsb (some .es)) 3 := by decide
theorem witness_DecodeFaultsLeaveState :
    let last : State := (boot.setIp 0x000F) |> sr .cs 0xFFFF
    boot.running ∧ decode (fetchWindow (boot.withBytes 0 [0x66, 0x50]).beginInstr) = .unhandled 2 ∧
      decode (fetchWindow (boot.withBytes 0 [0x8E, 0xC8]).beginInstr) = .malformed 2 ∧
      last.running ∧ decode (fetchWindow (last.withBytes 0 [0xCD]).beginInstr) = .short 1 := by decide
theorem witness_RunStateMarks :
    let halts := boot.withBytes 0 [0xF4]
    let claims : State := { boot with params := { Params.default with hostInt := [0xFF] } }
    ¬ ({ boot with halted := true } : State).running ∧
      (match step halts with | .next t => t.halted | _ => false) = true ∧
      halts.running ∧ halts.params.hostInt = [] ∧ claims.running ∧ 0xFF#8 ∈ claims.params.hostInt := by decide
theorem witness_StepKeepsInvariant : State.reset.Inv ∧ ∃ t, step State.reset = .next t := by
  refine ⟨⟨by decide, by decide, rfl, rfl, fun h => absurd h (by decide)⟩, ?_⟩
  cases h : step State.reset with
  | next t => exact ⟨t, rfl⟩
  | fault f => exact absurd (show (match step State.reset with | .next _ => true | _ => false) = true by decide) (by simp [h])
  | refused r => exact absurd (show (match step State.reset with | .next _ => true | _ => false) = true by decide) (by simp [h])
theorem witness_FaultEntry :
    (match step (boot.withBytes 0 [0xD4]) with
      | .next t => t.fault == some ⟨.unhandledOpcode [0xD4], 0, 0x0100⟩
      | _ => false) = true := by decide
theorem witness_FirstReadFault :
    (∃ f, binaryForm (.addEbGb outside .ax) beyond = some f ∧ ¬ accessible f.w f.dst beyond) ∧
    (∃ f, binaryForm (.addGbEb .ax outside) beyond = some f ∧ accessible f.w f.dst beyond ∧ ¬ accessible f.w f.src beyond) ∧
    (∃ f, testForm (.testEbGb outside .ax) beyond = some f ∧ ¬ accessible f.w f.dst beyond) ∧
    (∃ f, unaryForm (.incEb outside) beyond = some f ∧ ¬ accessible f.w f.dst beyond) ∧
    (∃ f, mulDivForm (.mulEb outside) beyond = some f ∧ ¬ accessible f.w f.src beyond) ∧
    (∃ f, shiftForm (.shlEb1 outside) beyond = some f ∧ ¬ accessible f.w f.dst beyond) ∧
    (∃ f, moveForm (.movGbEb .ax outside) beyond = some f ∧ ¬ accessible f.w f.src beyond) ∧
    (∃ f, exchangeForm (.xchgEbGb outside .ax) beyond = some f ∧ ¬ accessible f.w f.dst beyond) ∧
    (∃ op, pushForm (.pushEv outside) beyond = some op ∧ ¬ accessible .w16 op beyond) :=
  ⟨⟨_, rfl, not_accessible_mem (by decide)⟩, ⟨_, rfl, trivial, not_accessible_mem (by decide)⟩,
    ⟨_, rfl, not_accessible_mem (by decide)⟩, ⟨_, rfl, not_accessible_mem (by decide)⟩,
    ⟨_, rfl, not_accessible_mem (by decide)⟩, ⟨_, rfl, not_accessible_mem (by decide)⟩,
    ⟨_, rfl, not_accessible_mem (by decide)⟩, ⟨_, rfl, not_accessible_mem (by decide)⟩,
    ⟨_, rfl, not_accessible_mem (by decide)⟩⟩
/-- The later clauses of FirstReadFault, each read one byte too far up or further. -/
theorem witness_FirstReadFault_more :
    let far : MemRef := ⟨none, .direct 0x000F⟩
    let second : MemRef := ⟨none, .direct 0x000E⟩
    let s := beyond |> r16 .si 0x000F |> r16 .di 0x000F |> r16 .bx 0x0010 |> r16 .sp 0x000F |> r16 .cx 1
    (([.jmpMp far, .callMp far, .lesGvMp .o16 .di far, .cmpsw none, .scasw, .movsw none, .lodsw none, .repMovsw none,
        .repneScasw, .repeCmpsw none, .popReg .ax, .popf, .ret, .retf, .iret, .retIw 1, .retfIw 1] : List Instr).all fun i =>
      faultOf i s == some (.memoryFault 0xFFFFF 2 .read)) = true ∧
    (([.jmpMp second, .callMp second, .lesGvMp .o16 .di second, .jmpEv outside, .callEv outside, .cmpsw none] : List Instr).all
      fun i => faultOf i (beyond |> r16 .di 0x0010) == some (.memoryFault 0x100000 2 .read)) = true ∧
    faultOf (.lesGvMp .o32 .di ⟨none, .direct 0x000C⟩) beyond = some (.memoryFault 0x100000 2 .read) ∧
    faultOf (.xlat none) s = some (.memoryFault 0x100000 1 .read) ∧ readReg .w16 .cx s ≠ 0#16 ∧
    (∃ f, farLoadForm (.lesGvMp .o16 .di far) = some f) ∧ (∃ f, stringForm (.cmpsw none) = some f ∧ f.op = .cmps) ∧
    (∃ f, repeatForm .repneScasw = some f ∧ f.op = .scas) ∧ popForm (.popReg .ax) s ≠ none := by
  refine ⟨by decide, by decide, by decide, by decide, by decide, ⟨_, rfl⟩, ⟨_, rfl, rfl⟩, ⟨_, rfl, rfl⟩, by decide⟩
theorem witness_RegisterViews :
    ¬ viewCovers (.w8, .sp) .ax 7 ∧ ¬ viewCovers (.w8, .sp) .ax 16 ∧ ¬ viewCovers (.w16, .di) .di 16 ∧
    ¬ viewCovers (.w32, .di) .si 0 := by simp [viewCovers, byteParent, isHighByte]
theorem witness_MemoryAccess :
    boot.params.memSize ≤ 0xFFFFF + Width.w16.bytes - 1 ∧ 0xFFFFE + Width.w16.bytes - 1 < boot.params.memSize ∧
    Memory.wf boot.mem := by decide
theorem witness_BinaryAluResult :
    ∃ f, binaryForm (.adcEvGv .o16 lastWord .ax) edge = some f ∧ accessible f.w f.dst edge ∧ accessible f.w f.src edge :=
  ⟨_, rfl, accessible_mem (by decide), trivial⟩
theorem witness_TestAndUnaryResult :
    (∃ f, testForm (.testEbIb lastByte 0xFF) edge = some f ∧ accessible f.w f.dst edge ∧ accessible f.w f.src edge) ∧
    ∃ f, unaryForm (.negEv .o16 lastWord) edge = some f ∧ accessible f.w f.dst edge :=
  ⟨⟨_, rfl, accessible_mem (by decide), trivial⟩, ⟨_, rfl, accessible_mem (by decide)⟩⟩
theorem witness_MultiplyResult :
    (∃ f, mulDivForm (.mulEb lastByte) edge = some f ∧ f.op = .mul ∧ accessible f.w f.src edge) ∧
    ∃ f, mulDivForm (.imulEv .o16 lastWord) edge = some f ∧ f.op = .imul ∧ accessible f.w f.src edge :=
  ⟨⟨_, rfl, rfl, accessible_mem (by decide)⟩, ⟨_, rfl, rfl, accessible_mem (by decide)⟩⟩
theorem witness_DivideResult :
    (∃ f, mulDivForm (.divEb (.reg .bx)) boot = some f ∧ f.op = .div ∧ accessible f.w f.src boot) ∧
    (1#8).toNat ≠ 0 ∧ (0x00FF#16).toNat / (1#8).toNat < 2 ^ 8 ∧
    (∃ f, mulDivForm (.idivEb (.reg .bx)) boot = some f ∧ f.op = .idiv ∧ accessible f.w f.src boot) ∧
    (1#8).toInt ≠ 0 ∧ -(2 : Int) ^ 7 ≤ (0xFF80#16).toInt.tdiv (1#8).toInt ∧
    (0xFF80#16).toInt.tdiv (1#8).toInt ≤ (2 : Int) ^ 7 - 1 :=
  ⟨⟨_, rfl, rfl, trivial⟩, by decide, by decide, ⟨_, rfl, rfl, trivial⟩, by decide, by decide, by decide⟩
theorem witness_DivideErrors :
    (∃ f, mulDivForm (.divEb (.reg .bx)) boot = some f ∧ f.op = .div ∧ accessible f.w f.src boot ∧
      (valueOf f.w f.src boot).toNat = 0) ∧
    2 ^ 8 ≤ (0x0100#16).toNat / (1#8).toNat ∧
    (∃ f, mulDivForm (.idivEb (.reg .bx)) boot = some f ∧ f.op = .idiv ∧ (valueOf f.w f.src boot).toInt = 0) ∧
    (0xFF7F#16).toInt.tdiv (1#8).toInt < -(2 : Int) ^ 7 ∧ (2 : Int) ^ 7 ≤ (0xFF80#16).toInt.tdiv (0xFF#8).toInt ∧
    boot.fault = none ∧ faultOf (.divEb (.reg .bx)) boot = some .divideError ∧
    faultOf (.idivEb (.reg .bx)) boot = some .divideError :=
  ⟨⟨_, rfl, rfl, trivial, by decide⟩, by decide, ⟨_, rfl, rfl, by decide⟩, by decide, by decide, rfl, by decide, by decide⟩
theorem witness_ShiftResult :
    (∃ f, shiftForm (.shlEvIb .o16 lastWord 0x20) edge = some f ∧ accessible f.w f.dst edge ∧ f.count.toNat % 32 = 0) ∧
    (0x1F#8).toNat % 32 ≠ 0 ∧ ShiftOp.apply .rcl .iterated 0x81#8 9 false = .unchanged ∧
    ShiftOp.apply .shl .iterated 0x81#8 31 false = .value 0#8 false false ∧
    ShiftOp.apply .rcl .unspecified 0x81#8 2 false = .anyValue :=
  ⟨⟨_, rfl, accessible_mem (by decide), by decide⟩, by decide, by decide, by decide, by decide⟩
theorem witness_ShiftValues_CarryRotates : (1 ≤ 1 ∧ 1 < 32) ∧ (1 ≤ 31 ∧ 31 < 32) ∧ 18 % (8 + 1) = 0 ∧ 31 % (8 + 1) ≠ 0 ∧ 1 < 2 % 9 := by
  decide
theorem witness_FlagTransfers : inMemory (pushAddr edge 1) 2 edge ∧ inMemory (popAddr (edge |> r16 .sp 0xFFFE) 0) 2 edge := by
  decide
theorem witness_ConditionalJumps :
    let none := boot.flags
    let all := Flags.ofImage 0x0FD5
    let sign := Flags.ofImage 0x0080
    (none.OF = false ∧ none.CF = false ∧ none.ZF = false ∧ none.SF = none.OF ∧ none.PF = false) ∧
    (all.OF = true ∧ all.CF = true ∧ all.ZF = true ∧ all.SF = true ∧ all.PF = true) ∧ sign.SF ≠ sign.OF := by decide
/-- The clauses of ConditionalJumps on JCXZ and LOOP, and those of StoreAndStackFaults. -/
theorem witness_ConditionalJumps_cx :
    readReg .w16 .cx boot = 0#16 ∧ readReg .w16 .cx (boot |> r16 .cx 1) = 1#16 ∧ readReg .w16 .cx (boot |> r16 .cx 2) ≠ 1#16 ∧
    boot.flags.ZF = false ∧ (boot |> fl 0x0040).flags.ZF = true := by decide
theorem witness_StoreAndStackFaults_stack :
    let s := fun sp => beyond |> r16 .sp sp |> fl 0x0800
    (([.pushReg .ax, .pushf, .callRel16 0, .callEv (.reg .ax), .callFar 0 0, .callMp ⟨none, .direct 0⟩, .intIb 0xFF, .int3,
        .into] : List Instr).all fun i => faultOf i (s 0x0011) == some (.memoryFault 0xFFFFF 2 .write)) = true ∧
    inMemory (pushAddr (s 2) 1) 2 (s 2) ∧ inMemory (pushAddr (s 4) 2) 2 (s 4) ∧
    (([.callFar 0 0, .callMp ⟨none, .direct 0⟩, .intIb 0xFF, .int3, .into] : List Instr).all fun i =>
      faultOf i (s 2) == some (.memoryFault 0x10FFEE 2 .write)) = true ∧
    faultOf (.intIb 0xFF) (s 4) = some (.memoryFault 0x10FFEE 2 .write) ∧
    inMemory (popAddr (s 0x000E) 0) 2 (s 0x000E) ∧ inMemory (popAddr (s 0x000C) 1) 2 (s 0x000C) ∧
    (([.popReg .ax, .popf, .ret, .retIw 0, .retf, .retfIw 0, .iret] : List Instr).all fun i =>
      faultOf i (s 0x000F) == some (.memoryFault 0xFFFFF 2 .read)) = true ∧
    (([.retf, .retfIw 0, .iret] : List Instr).all fun i =>
      faultOf i (s 0x000E) == some (.memoryFault 0x100000 2 .read)) = true ∧
    faultOf .iret (s 0x000C) = some (.memoryFault 0x100000 2 .read) ∧
    faultOf (.popEv outside) (s 0) = some (.memoryFault 0x100000 2 .write) ∧ popForm (.popEv outside) (s 0) ≠ none := by decide
theorem witness_StoreAndStackFaults_vector :
    let s := fun size => { boot with params := { Params.default with memSize := size } } |> r16 .sp 6
    0xFF#8 ∉ (s 0x3FE).params.hostInt ∧ inMemory (pushAddr (s 0x3FE) 3) 2 (s 0x3FE) ∧ inMemory (4 * (0xFF#8).toNat) 2 (s 0x3FE) ∧
    faultOf (.intIb 0xFF) (s 0x3FD) = some (.memoryFault 0x3FC 2 .read) ∧
    faultOf (.intIb 0xFF) (s 0x3FE) = some (.memoryFault 0x3FE 2 .read) := by decide
theorem witness_StoreAndStackFaults_store :
    let s := beyond |> r16 .di 0x000F |> r16 .cx 1
    let t := beyond |> r16 .di 0x000E |> r16 .si 0x000C |> r16 .cx 2
    let u := beyond |> r16 .si 0x000E |> r16 .cx 2
    (∃ f, moveForm (.movEbGb outside .ax) beyond = some f ∧ f.dst = .mem .ds 0x0010 ∧ accessible f.w f.src beyond) ∧
    faultOf (.movEbGb outside .ax) beyond = some (.memoryFault 0x100000 1 .write) ∧
    (([.stosw, .movsw none, .repStosw, .repMovsw none] : List Instr).all fun i =>
      faultOf i s == some (.memoryFault 0xFFFFF 2 .write)) = true ∧
    (([.repStosw, .repMovsw none] : List Instr).all fun i =>
      faultOf i t == some (.memoryFault 0x100000 2 .write)) = true ∧
    (([.repLodsw none, .repMovsw none] : List Instr).all fun i =>
      faultOf i u == some (.memoryFault 0x100000 2 .read)) = true ∧
    ∃ f, repeatForm .repStosw = some f ∧ 1 < (readReg .w16 .cx t).toNat ∧ elementsInMemory f.toStringForm t 1 :=
  ⟨⟨_, rfl, rfl, trivial⟩, by decide, by decide, by decide, by decide, ⟨_, rfl, by decide, by unfold elementsInMemory; decide⟩⟩
/-- CMPS and SCAS reach element 1, which lies outside memory: under REPE after an equal pair, under REPNE after an unequal one. -/
theorem witness_StoreAndStackFaults_compare :
    let s := beyond |> r16 .si 0x000E |> r16 .di 0x000C |> r16 .cx 2
    let t := beyond |> r16 .si 0x000C |> r16 .di 0x000E |> r16 .cx 2
    let u := t |> r16 .ax 1
    faultOf (.repeCmpsw none) s = some (.memoryFault 0x100000 2 .read) ∧
    faultOf (.repeCmpsw none) t = some (.memoryFault 0x100000 2 .read) ∧
    faultOf .repeScasw t = some (.memoryFault 0x100000 2 .read) ∧ faultOf .repneScasw t = none ∧
    faultOf .repneScasw u = some (.memoryFault 0x100000 2 .read) ∧ faultOf .repeScasw u = none ∧
    (∃ f, repeatForm (.repeCmpsw none) = some f ∧ f.op = .cmps ∧ 1 < (readReg .w16 .cx s).toNat ∧
      elementsInMemory f.toStringForm s 1 ∧ elementsInMemory f.toStringForm t 1 ∧
      ∀ l < 1, ¬ repeatEnds f.kind (updateSUB (memValue .w16 (sourceElement .w16 none s l) s)
        (memValue .w16 (destElement .w16 s l) s) false s.flags).2) ∧
    ∃ f, repeatForm .repneScasw = some f ∧ f.op = .scas ∧ elementsInMemory f.toStringForm u 1 ∧
      ∀ l < 1, ¬ repeatEnds f.kind (updateSUB (readReg .w16 .ax u) (memValue .w16 (destElement .w16 u l) u) false u.flags).2 :=
  ⟨by decide, by decide, by decide, by decide, by decide, by decide,
    ⟨_, rfl, rfl, by decide, by unfold elementsInMemory; decide, by unfold elementsInMemory; decide, by unfold repeatEnds; decide⟩,
    ⟨_, rfl, rfl, by unfold elementsInMemory; decide, by unfold repeatEnds; decide⟩⟩
theorem witness_JumpsAndHalt :
    accessible .w16 (operandOf lastWord edge) edge ∧ inMemory (edge.addr .ds 0xFFFC) 2 edge ∧
    inMemory (edge.addr .ds (0xFFFC + 2#16)) 2 edge :=
  ⟨accessible_mem (by decide), by decide, by decide⟩
theorem witness_Calls :
    inMemory (pushAddr edge 1) 2 edge ∧ inMemory (pushAddr edge 2) 2 edge ∧ accessible .w16 (operandOf lastWord edge) edge ∧
    inMemory (edge.addr .ds 0xFFFE) 2 edge ∧ inMemory (edge.addr .ds (0xFFFE + 2#16)) 2 edge :=
  ⟨by decide, by decide, accessible_mem (by decide), by decide, by decide⟩
theorem witness_Returns :
    let s := edge |> r16 .sp 0xFFFA
    inMemory (popAddr s 0) 2 s ∧ inMemory (popAddr s 1) 2 s ∧ inMemory (popAddr s 2) 2 s := by decide
theorem witness_SoftwareInterruptEntry :
    boot.flags.OF = false ∧ 0xFF#8 ∉ edge.params.hostInt ∧ inMemory (pushAddr edge 1) 2 edge ∧
    inMemory (pushAddr edge 2) 2 edge ∧ inMemory (pushAddr edge 3) 2 edge ∧ inMemory (4 * (0xFF#8).toNat) 4 edge ∧
    (edge |> fl 0x0800).flags.OF = true := by decide
theorem witness_InterruptReturnRoundTrip :
    Memory.wf edge.mem ∧ edge.fault = none ∧ 0xFF#8 ∉ edge.params.hostInt ∧ completes (.intIb 0xFF) edge = true ∧
    completes .int3 edge = true ∧ (edge |> fl 0x0800).flags.OF = true ∧ completes .into (edge |> fl 0x0800) = true := by decide

/-- What the host service answers is a free value, so no witness can show which of the three answers it gives. -/
theorem witness_HostServices :
    let s : State := { boot with params := { Params.default with hostInt := [3, 4, 0xFF] } } |> fl 0x0800
    3#8 ∈ s.params.hostInt ∧ 4#8 ∈ s.params.hostInt ∧ 0xFF#8 ∈ s.params.hostInt ∧ s.fault = none ∧ s.flags.OF = true ∧
    interruptVector (.intIb 0xFF) = some 0xFF ∧ interruptVector .int3 = some 3 ∧ interruptVector .into = some 4 := by decide
theorem witness_StringElementResult :
    let s := edge |> r16 .si 0xFFFE |> r16 .di 0xFFFE
    ∃ f, stringForm (.movsw none) = some f ∧ elementsInMemory f s 1 :=
  ⟨_, rfl, by unfold elementsInMemory; decide⟩
theorem witness_RepetitionUnrolls :
    let s := boot |> r16 .cx 1
    (∃ f : RepeatForm, repeatForm (.repeCmpsb none) = some f ∧ stringForm (.cmpsb none) = some f.toStringForm) ∧
    readReg .w16 .cx boot = 0#16 ∧ readReg .w16 .cx s ≠ 0#16 ∧ completes (.cmpsb none) s = true ∧
    repeatEnds .repz ⟨false, false, false, false, false, false, false, false, false⟩ ∧
    ¬ repeatEnds .repz ⟨false, false, false, true, false, false, false, false, false⟩ ∧
    completes (.repeCmpsb none) boot = true := by
  refine ⟨⟨_, rfl, rfl⟩, by decide, by decide, by decide, .inl ⟨rfl, rfl⟩, ?_, by decide⟩
  simp [repeatEnds]
theorem witness_RepetitionCompletes :
    let s := edge |> r16 .cx 2 |> r16 .di 0xFFFC
    ∃ f, repeatForm .repStosw = some f ∧ s.fault = none ∧ elementsInMemory f.toStringForm s (readReg .w16 .cx s).toNat :=
  ⟨_, rfl, rfl, by unfold elementsInMemory; decide⟩
theorem witness_RepeatedStores :
    let s := edge |> r16 .cx 2 |> r16 .si 0xFFFA |> r16 .di 0xFFFE |> fl 0x0400
    (∃ f, repeatForm (.repMovsw none) = some f ∧ f.op = .movs ∧ s.fault = none ∧ Memory.wf s.mem ∧
      elementsInMemory f.toStringForm s (readReg .w16 .cx s).toNat) ∧
    (∀ j < 2, ∀ l < 2, sourceElement .w16 none s j + 2 ≤ destElement .w16 s l ∨
      destElement .w16 s l + 2 ≤ sourceElement .w16 none s j) ∧
    ∃ f, repeatForm .repStosw = some f ∧ f.op = .stos ∧ elementsInMemory f.toStringForm s (readReg .w16 .cx s).toNat :=
  ⟨⟨_, rfl, rfl, rfl, by decide, by unfold elementsInMemory; decide⟩, by decide,
    ⟨_, rfl, rfl, by unfold elementsInMemory; decide⟩⟩
theorem witness_MoveAndExchangeResult :
    (∃ f, moveForm (.movEvGv .o16 lastWord .ax) edge = some f ∧ accessible f.w f.dst edge ∧ accessible f.w f.src edge) ∧
    ∃ f, exchangeForm (.xchgEbGb lastByte .ax) edge = some f ∧ accessible f.w f.dst edge :=
  ⟨⟨_, rfl, accessible_mem (by decide), trivial⟩, ⟨_, rfl, accessible_mem (by decide)⟩⟩
theorem witness_AddressLoads :
    (∃ f, farLoadForm (.lesGvMp .o16 .di ⟨none, .direct 0xFFFE⟩) = some f) ∧ inMemory (edge.addr .ds 0xFFFE) 2 edge ∧
    inMemory (edge.addr .ds (0xFFFE + BitVec.ofNat 16 Width.w16.bytes)) 2 edge ∧ inMemory (edge.addr .ds 0xFFFF) 1 edge :=
  ⟨⟨_, rfl⟩, by decide, by decide, by decide⟩
theorem witness_PushAndPopResult :
    (∃ op, pushForm (.pushEv lastWord) edge = some op ∧ accessible .w16 op edge) ∧ inMemory (pushAddr edge 1) 2 edge ∧
    Memory.wf edge.mem ∧
    (∃ op, popForm (.popEv lastWord) edge = some op ∧ accessible .w16 op edge) ∧
    inMemory (popAddr (edge |> r16 .sp 0xFFFE) 0) 2 edge ∧ popForm (.popReg .sp) edge = some (.reg .sp) :=
  ⟨⟨_, rfl, accessible_mem (by decide)⟩, by decide, by decide, ⟨_, rfl, accessible_mem (by decide)⟩, by decide, rfl⟩

/-- One instruction for each clause of the frames, at the top of memory. -/
theorem witness_ArithmeticFrame :
    (([.adcEvGv .o16 lastWord .ax, .cmpEbGb lastByte .ax] : List Instr).all fun i =>
      (binaryForm i edge).isSome && completes i edge) = true ∧
    ((testForm (.testEbGb lastByte .ax) edge).isSome && completes (.testEbGb lastByte .ax) edge) = true ∧
    ((unaryForm (.incEb lastByte) edge).isSome && completes (.incEb lastByte) edge) = true ∧
    ((mulDivForm (.mulEb lastByte) edge).isSome && completes (.mulEb lastByte) edge) = true ∧
    ((shiftForm (.rolEb1 lastByte) edge).isSome && completes (.rolEb1 lastByte) edge) = true ∧
    (([.cbw, .cwde, .cwd, .cdq] : List Instr).all fun i => completes i edge) = true := by decide
theorem witness_ControlFrame :
    (([.clc, .stc, .cmc, .cld, .std, .cli, .sti, .lahf, .sahf, .pushf, .popf, .jo 0x80, .jcxz 0x80, .loop 0x80, .loope 0x80,
        .loopne 0x80, .jmpRel8 0x80, .jmpRel16 0x8000, .jmpEv lastWord, .jmpFar 0xFFFF 0xFFFF, .callRel16 0x8000] :
      List Instr).all fun i => completes i edge) = true ∧
    (([.jmpMp ⟨none, .direct 0xFFFE⟩, .callEv lastWord, .callFar 0xFFFF 0xFFFF, .callMp ⟨none, .direct 0xFFFE⟩, .ret,
        .retIw 0xFFFF, .retf, .retfIw 0xFFFF, .iret, .intIb 0xFF, .int3, .into, .hlt] : List Instr).all fun i =>
      completes i edge) = true ∧
    shortJump (.jo 0x80) ≠ none ∧ 0xFF#8 ∉ edge.params.hostInt := by decide
theorem witness_StringFrame :
    let s := edge |> r16 .cx 2 |> r16 .si 0xFFFC |> r16 .di 0xFFFC
    ((stringForm .stosw).isSome && completes .stosw s) = true ∧
    ((repeatForm (.repMovsw none)).isSome && completes (.repMovsw none) s) = true := by decide
theorem witness_TransferFrame :
    ((moveForm (.movEvGv .o16 lastWord .ax) edge).isSome && (exchangeForm (.xchgEbGb lastByte .ax) edge).isSome &&
      (farLoadForm (.lesGvMp .o16 .di ⟨none, .direct 0xFFFE⟩)).isSome && (pushForm (.pushEv lastWord) edge).isSome &&
      (popForm (.popEv lastWord) edge).isSome) = true ∧
    (([.movEvGv .o16 lastWord .ax, .xchgEbGb lastByte .ax, .nop .o32, .leaGvM .o32 .ax ⟨none, .direct 0xFFFF⟩,
        .lesGvMp .o16 .di ⟨none, .direct 0xFFFE⟩, .xlat none, .pushEv lastWord, .popEv lastWord] : List Instr).all fun i =>
      completes i edge) = true := by decide
theorem witness_FaultPrecision :
    ((binaryForm (.addEbGb outside .ax) beyond).isSome && (moveForm (.movEbGb outside .ax) beyond).isSome &&
      (exchangeForm (.xchgEbGb outside .ax) beyond).isSome && (pushForm (.pushEv outside) beyond).isSome &&
      (popForm (.popEv outside) beyond).isSome && (stringForm .stosw).isSome && (repeatForm .repStosw).isSome) = true ∧
    (([.addEbGb outside .ax, .movEbGb outside .ax, .xchgEbGb outside .ax, .pushEv outside, .callRel16 0,
        .callFar 0 0, .jmpEv outside, .intIb 0xFF] : List Instr).all fun i => faultsAt i beyond) = true ∧
    faultsAt (.popEv outside) beyond = true ∧
    (([.ret, .retf, .retfIw 0xFFFF, .iret, .popf, .xlat none] : List Instr).all fun i =>
      faultsAt i (beyond |> r16 .sp 0x0010 |> r16 .bx 0x0010)) = true ∧
    (([.retf, .iret] : List Instr).all fun i => faultsAt i (beyond |> r16 .sp 0x000E)) = true ∧
    faultsAt .stosw (beyond |> r16 .di 0x000F) = true ∧ faultsAt .repStosw (beyond |> r16 .di 0x000D |> r16 .cx 2) = true ∧
    faultsAt .repStosw (beyond |> r16 .di 0x000F |> r16 .cx 1) = true ∧
    faultsAt (.callFar 0 0) (beyond |> r16 .sp 2) = true ∧ faultsAt (.intIb 0xFF) (beyond |> r16 .sp 2) = true ∧
    faultsAt (.intIb 0xFF) (beyond |> r16 .sp 4) = true ∧ faultsAt .iret (beyond |> r16 .sp 0x000C) = true ∧
    faultsAt (.popEv outside) (beyond |> r16 .sp 0) = true := by
  decide
theorem witness_SystemStateWriters :
    Instr.sahf.wf = true ∧ completes .sahf edge = true ∧ edge.params.hostInt = [] ∧ interruptVector (.intIb 0xFF) = some 0xFF ∧
    (([.sahf, .popf, .iret, .cli, .std, .intIb 0xFF, .movSwEw .gs lastWord] : List Instr).all fun i => completes i edge) = true := by
  decide
theorem witness_HostAccessors :
    Memory.wf boot.mem ∧ portPhys 0 (-1) < 0 ∧
    ∀ n ∈ [1, 2, 4, 8],
      (0 ≤ portPhys 0xF000 (0x10000 - n) ∧ portPhys 0xF000 (0x10000 - n) + n ≤ boot.params.memSize) ∧
      ¬ portPhys 0xF000 (0x10001 - n) + n ≤ boot.params.memSize ∧
      (getBytes 0xF000 (0x10000 - n) n.toNat boot).toOption.isSome ∧ (getBytes 0xF000 (0x10001 - n) n.toNat boot).toOption = none ∧
      ([0xAA, 0x55] : List Byte) ≠ [] := by decide
theorem witness_AssemblerTables :
    ((0 : Int) ≤ 0xFF ∧ (0xFF : Int) < 0x100) ∧ ((0x100 : Int) ≤ 0xFFFF ∧ (0xFFFF : Int) < 0x10000) ∧
    ((-1 : Int) < 0 ∧ (0x10000 : Int) ≤ 0x10000) ∧ ((-1 : Int) < 0 ∧ (0x100 : Int) ≤ 0x100) ∧
    (Reg.bp, Reg.di, EABase.bpDi) ∈
      [(Reg.bx, Reg.si, EABase.bxSi), (.bx, .di, .bxDi), (.bp, .si, .bpSi), (.bp, .di, .bpDi)] ∧
    2 ≤ (([.reg .bx, .num 1, .reg .bp] : List AsmToken).filter fun t => t == .reg .bx || t == .reg .bp).length ∧
    (([[.reg .bx, .num 1, .reg .bp], [.reg .di, .reg .di], [.num 1, .reg .bx, .num 2], [.reg .bx, .other], [.reg .sp],
        [.reg .bx, .num (-1)], [.num 0x10000]] : List (List AsmToken)).all fun ts => (resolve ts).toOption.isNone) = true := by
  decide
end Sys2Proof.Tests
end

section
/-! 10_state.md: the register views (R31-R33) and the FLAGS image (R40, R41). -/

namespace Sys2Proof.Machine

/-! ## The byte views of the general registers (10_state.md R31, R33) -/

/-- A byte code is fixed by the register it lies in and the half it names. -/
theorem eq_of_byteParent_eq_of_isHighByte_eq (q r : Reg) (hp : byteParent q = byteParent r)
    (hh : isHighByte q = isHighByte r) : q = r := by
  cases q <;> cases r <;> simp_all [byteParent, isHighByte]

theorem GPR.getLsbD_get8 (g : GPR) (r : Reg) (b : Nat) :
    (g.get8 r).getLsbD b =
      (decide (b < 8) && (g.get (byteParent r)).getLsbD ((if isHighByte r then 8 else 0) + b)) := by
  simp only [GPR.get8, BitVec.getLsbD_extractLsb']

theorem GPR.get8_set8_ne (g : GPR) (r q : Reg) (v : Byte) (h : q ≠ r) : (g.set8 r v).get8 q = g.get8 q := by
  apply BitVec.eq_of_getLsbD_eq
  intro b hb
  rw [GPR.getLsbD_get8, GPR.getLsbD_get8, GPR.set8_outside]
  intro hp
  -- Two codes of one register name its two halves, which have no bit in common.
  have hhalf : isHighByte q = !isHighByte r :=
    Bool.eq_not.mpr fun hh => h (eq_of_byteParent_eq_of_isHighByte_eq q r hp hh)
  rw [hhalf]
  cases isHighByte r
  case false => simp
  case true => simp; omega

theorem GPR.get8_set16 (g : GPR) (r : Reg) (v : Word) :
    (g.set16 (byteParent r) v).get8 r = (v >>> (if isHighByte r then 8 else 0)).setWidth 8 := by
  apply BitVec.eq_of_getLsbD_eq
  intro b hb
  have hlow : (if isHighByte r then 8 else 0) + b < 16 := by split <;> omega
  simp only [GPR.getLsbD_get8, GPR.set16, GPR.get_set_self, BitVec.getLsbD_append, hlow, if_true,
    BitVec.getLsbD_setWidth, BitVec.getLsbD_ushiftRight]

theorem GPR.get16_eq_get8_append_get8 (g : GPR) (r h l : Reg) (hph : byteParent h = r) (hpl : byteParent l = r)
    (hh : isHighByte h = true) (hl : isHighByte l = false) : g.get16 r = g.get8 h ++ g.get8 l := by
  simp only [GPR.get16, GPR.get8, hph, hpl, hh, hl, if_true, Bool.false_eq_true, if_false]
  rw [BitVec.extractLsb'_append_extractLsb'_eq_extractLsb' (by omega)]

/-- The pairs of R33: code i is the low byte of its own register, code i + 4 the high byte of the same register. -/
theorem lowByte_highByte_views :
    ∀ x ∈ [(Reg.ax, Reg.sp), (Reg.cx, Reg.bp), (Reg.dx, Reg.si), (Reg.bx, Reg.di)],
      byteParent x.1 = x.1 ∧ byteParent x.2 = x.1 ∧ isHighByte x.1 = false ∧ isHighByte x.2 = true := by
  decide

/-! ## Register writes as the state sees them -/

theorem getLsbD_writeReg_of_not_viewCovers (w : Width) (r q : Reg) (v : BitVec w.bits) (s : State) (b : Nat)
    (h : ¬ viewCovers (w, r) q b) : ((writeReg w r v s).gpr.get q).getLsbD b = (s.gpr.get q).getLsbD b := by
  apply writeReg_outside
  cases w with
  | w8 => exact not_and.mp h
  | w16 => exact not_and.mp h
  | w32 => exact h

theorem readReg_w8_writeReg_w8_ne (r q : Reg) (v : Byte) (s : State) (h : q ≠ r) :
    readReg .w8 q (writeReg .w8 r v s) = readReg .w8 q s :=
  GPR.get8_set8_ne s.gpr r q v h

theorem readReg_w8_writeReg_w16 (r : Reg) (v : Word) (s : State) :
    readReg .w8 r (writeReg .w16 (byteParent r) v s) = (v >>> (if isHighByte r then 8 else 0)).setWidth 8 :=
  GPR.get8_set16 s.gpr r v

theorem readReg_w16_eq_append (r h l : Reg) (s : State) (hph : byteParent h = r) (hpl : byteParent l = r)
    (hh : isHighByte h = true) (hl : isHighByte l = false) :
    readReg .w16 r s = readReg .w8 h s ++ readReg .w8 l s :=
  GPR.get16_eq_get8_append_get8 s.gpr r h l hph hpl hh hl

/-- Settles O20: the frame of a view bit by bit, and the two bytes of a 16-bit register as its two halves. -/
theorem registerViews : Obligations.RegisterViews := by
  refine ⟨fun w r v s => ⟨readReg_writeReg_self w r v s, fun q b hq =>
    getLsbD_writeReg_of_not_viewCovers w r q v s b hq⟩, ?_⟩
  rintro s v h l ⟨low, high⟩ hx
  obtain ⟨hlow, hhigh, hl, hh⟩ := lowByte_highByte_views _ hx
  dsimp only at hlow hhigh hl hh ⊢
  have hne : high ≠ low := ne_of_apply_ne isHighByte (by simp [hl, hh])
  refine ⟨?_, ?_, ?_⟩
  · simpa [hhigh, hh] using readReg_w8_writeReg_w16 high v s
  · simpa [hlow, hl] using readReg_w8_writeReg_w16 low v s
  · rw [readReg_w16_eq_append low high low _ hhigh hlow hh hl, readReg_w8_writeReg_w8_ne _ _ _ _ hne,
      readReg_writeReg_self, readReg_writeReg_self]

/-! ## The FLAGS image (10_state.md R40, R41) -/

/-- The bit of a flag in the FLAGS image: the table of R40. -/
def FlagName.bit : FlagName → Nat
  | .CF => 0 | .PF => 2 | .AF => 4 | .ZF => 6 | .SF => 7 | .TF => 8 | .IF => 9 | .DF => 10 | .OF => 11

/-- The bits of the FLAGS image that hold no flag: the dashes in the table of R40. -/
def unusedFlagBits : List Nat := [1, 3, 5, 12, 13, 14, 15]

theorem flagBit_or_unused (b : Nat) (h : b < 16) : (∃ n : FlagName, b = n.bit) ∨ b ∈ unusedFlagBits := by
  have htable : ∀ b < 16, b ∈ allFlags.map FlagName.bit ∨ b ∈ unusedFlagBits := by decide
  refine (htable b h).imp_left fun hb => ?_
  obtain ⟨n, -, hn⟩ := List.mem_map.mp hb
  exact ⟨n, hn.symm⟩

theorem Flags.ext_get (f g : Flags) (h : ∀ n, f.get n = g.get n) : f = g := by
  cases f; cases g
  simp only [Flags.mk.injEq]
  exact ⟨h .CF, h .PF, h .AF, h .ZF, h .SF, h .TF, h .IF, h .DF, h .OF⟩

@[simp] theorem Flags.getLsbD_image_bit (f : Flags) (n : FlagName) : f.image.getLsbD n.bit = f.get n := by
  simp only [Flags.image, BitVec.getLsbD_append]
  cases n <;> simp [FlagName.bit, Flags.get]

theorem Flags.getLsbD_image_unused (f : Flags) : ∀ b ∈ unusedFlagBits, f.image.getLsbD b = false := by
  simp only [Flags.image, BitVec.getLsbD_append]
  simp [unusedFlagBits]

@[simp] theorem Flags.get_ofImage (v : Word) (n : FlagName) : (Flags.ofImage v).get n = v.getLsbD n.bit := by
  cases n <;> rfl

theorem Flags.ofImage_image (f : Flags) : Flags.ofImage f.image = f :=
  Flags.ext_get _ _ fun n => by rw [Flags.get_ofImage, Flags.getLsbD_image_bit]

theorem getLsbD_flagMask_bit (n : FlagName) : (0x0FD5#16).getLsbD n.bit = true := by
  cases n <;> rfl

theorem getLsbD_flagMask_unused : ∀ b ∈ unusedFlagBits, (0x0FD5#16).getLsbD b = false := by
  decide

theorem Flags.image_ofImage (v : Word) : (Flags.ofImage v).image = v &&& 0x0FD5#16 := by
  apply BitVec.eq_of_getLsbD_eq
  intro b hb
  rw [BitVec.getLsbD_and]
  obtain ⟨n, rfl⟩ | hunused := flagBit_or_unused b hb
  · rw [Flags.getLsbD_image_bit, Flags.get_ofImage, getLsbD_flagMask_bit, Bool.and_true]
  · rw [Flags.getLsbD_image_unused _ b hunused, getLsbD_flagMask_unused b hunused, Bool.and_false]

/-- Settles O22: each flag at its own bit of R40, the other bits 0, and the two directions from these. -/
theorem flagsImage : Obligations.FlagsImage := by
  intro f v
  have hbit := f.getLsbD_image_bit
  exact ⟨hbit .OF, hbit .DF, hbit .IF, hbit .TF, hbit .SF, hbit .ZF, hbit .AF, hbit .PF, hbit .CF,
    f.getLsbD_image_unused, Flags.image_ofImage v, Flags.ofImage_image f⟩

end Sys2Proof.Machine
end

section
/-! 20_memory.md: the bound, the byte order and the bytes touched of a memory access (R74, R76). -/

namespace Sys2Proof.Machine

/-! ## The bytes of a little-endian value (20_memory.md R74, R76) -/

theorem extractLsb'_eq_ofNat_div {n : Nat} (v : BitVec n) (i : Nat) :
    v.extractLsb' i 8 = BitVec.ofNat 8 (v.toNat / 2 ^ i) := by
  rw [BitVec.extractLsb', Nat.shiftRight_eq_div_pow]

/-- Digit j in base 256 of a load is the byte at p + j. The induction is on the bytes loaded: the last byte is a multiple
of 2 ^ (8 * (j + 1)) when j is an earlier place, and at its own place the bytes below it divide to 0. -/
theorem Memory.load_div_mod (m : Memory) (p n j : Nat) (hj : j < n) :
    Memory.load m p n / 2 ^ (8 * j) % 2 ^ 8 = (Memory.read m (p + j)).toNat := by
  induction n with
  | zero => omega
  | succ n ih =>
    rw [Memory.load]
    obtain hlt | rfl := Nat.lt_succ_iff_lt_or_eq.mp hj
    · have hpow : 2 ^ (8 * n) = 2 ^ (8 * j) * (2 ^ 8 * 2 ^ (8 * (n - j - 1))) := by
        rw [← Nat.pow_add, ← Nat.pow_add]; congr 1; omega
      rw [hpow, Nat.mul_left_comm, Nat.add_mul_div_left _ _ (Nat.two_pow_pos _), Nat.mul_left_comm,
        Nat.add_mul_mod_self_left, ih hlt]
    · rw [Nat.add_mul_div_right _ _ (Nat.two_pow_pos _), Nat.div_eq_of_lt (Memory.load_lt m p j), Nat.zero_add,
        Nat.mod_eq_of_lt (Memory.read m (p + j)).isLt]

/-- Byte j of a load is the byte at address p + j. -/
theorem Memory.extractLsb'_load (m : Memory) (p n j N : Nat) (hj : j < n) (hN : 8 * n ≤ N) :
    (BitVec.ofNat N (Memory.load m p n)).extractLsb' (8 * j) 8 = Memory.read m (p + j) := by
  have hlt : Memory.load m p n < 2 ^ N :=
    Nat.lt_of_lt_of_le (Memory.load_lt m p n) (Nat.pow_le_pow_right (by omega) hN)
  apply BitVec.eq_of_toNat_eq
  rw [extractLsb'_eq_ofNat_div, BitVec.toNat_ofNat, BitVec.toNat_ofNat, Nat.mod_eq_of_lt hlt,
    Memory.load_div_mod m p n j hj]

/-- Every byte of memory after a value of any width is stored. -/
theorem Memory.read_store_bitVec {N : Nat} (m : Memory) (p n a : Nat) (v : BitVec N) (h : Memory.wf m) :
    Memory.read (Memory.store m p v.toNat n) a =
      if p ≤ a ∧ a < p + n then v.extractLsb' (8 * (a - p)) 8 else Memory.read m a := by
  rw [Memory.read_store m p v.toNat n a h, extractLsb'_eq_ofNat_div]

/-! ## The same of the core's accesses -/

/-- The bound as R74 words it, by the last byte of the access. -/
theorem inMemory_iff_lastByte_lt (w : Width) (p : Nat) (s : State) :
    inMemory p w.bytes s ↔ p + w.bytes - 1 < s.params.memSize := by
  have := bytes_pos w
  rw [inMemory]; omega

theorem extractLsb'_memValue (w : Width) (p j : Nat) (s : State) (hj : j < w.bytes) :
    (memValue w p s).extractLsb' (8 * j) 8 = Memory.read s.mem (p + j) :=
  Memory.extractLsb'_load s.mem p w.bytes j w.bits hj (Nat.le_of_eq (bits_eq w).symm)

theorem read_memStored (w : Width) (p a : Nat) (v : BitVec w.bits) (s : State) (h : Memory.wf s.mem) :
    Memory.read (memStored w p v s).mem a =
      if p ≤ a ∧ a < p + w.bytes then v.extractLsb' (8 * (a - p)) 8 else Memory.read s.mem a :=
  Memory.read_store_bitVec s.mem p w.bytes a v h

/-- Settles O21: an access whose last byte lies outside memory faults; inside, its bytes are those of the value. -/
theorem memoryAccess : Obligations.MemoryAccess := by
  intro w p v s
  constructor
  · intro hout
    have hmem : ¬ inMemory p w.bytes s := by rw [inMemory_iff_lastByte_lt]; omega
    exact ⟨memRead_error w p s hmem, memWrite_error w p v s hmem⟩
  · intro hlast
    have hmem := (inMemory_iff_lastByte_lt w p s).mpr hlast
    exact ⟨⟨_, memRead_ok w p s hmem, fun j hj => extractLsb'_memValue w p j s hj⟩,
      fun hwf => ⟨_, memWrite_ok w p v s hmem, rfl, fun a => read_memStored w p a v s hwf⟩⟩

end Sys2Proof.Machine
end

section
/-! 30_encoding.md: what a row of the opcode map answers, said once (R130, R170-R172), and the statements about prefixes, row
checks, length and addresses that follow (R112, R115, R116, R122-R125, R171, R172). -/

namespace Sys2Proof

open Machine

/-! ## Reading operands (30_encoding.md R119-R126) -/

/-- Operands read from `bs`, `n` bytes behind: an instruction of operand size `o`, or the bytes end before the `k` that the
operands take at most. -/
def ReadsAtMost (k : Nat) (o : OSize) (bs : List Byte) (n : Nat) (d : Decoded) : Prop :=
  (∃ i m, d = .ok i m ∧ i.prefixes.osz = o) ∨ (d = .short (n + bs.length) ∧ bs.length < k)

section ReadsAtMost

variable {k : Nat} {o : OSize} {bs : List Byte} {n : Nat}

theorem readsAtMost_ok {i : Instr} (h : i.prefixes.osz = o) : ReadsAtMost k o bs n (.ok i n) := .inl ⟨i, n, rfl, h⟩

theorem ReadsAtMost.mono {j : Nat} {d : Decoded} (h : ReadsAtMost j o bs n d) (hjk : j ≤ k) : ReadsAtMost k o bs n d :=
  h.imp_right fun ⟨hd, hlt⟩ => ⟨hd, Nat.lt_of_lt_of_le hlt hjk⟩

theorem readsAtMost_takeByte {f : Byte → List Byte → Nat → Decoded} (h : ∀ b bs n, ReadsAtMost k o bs n (f b bs n)) :
    ReadsAtMost (k + 1) o bs n (takeByte bs n f) := by
  cases bs with
  | nil => exact .inr ⟨rfl, Nat.succ_pos k⟩
  | cons b bs =>
    refine (h b bs (n + 1)).imp_right fun ⟨hd, hlt⟩ => ⟨hd.trans ?_, Nat.succ_lt_succ hlt⟩
    rw [List.length_cons, Nat.add_right_comm, Nat.add_assoc]

theorem readsAtMost_takeWord {f : Word → List Byte → Nat → Decoded} (h : ∀ v bs n, ReadsAtMost k o bs n (f v bs n)) :
    ReadsAtMost (k + 2) o bs n (takeWord bs n f) :=
  readsAtMost_takeByte fun _ _ _ => readsAtMost_takeByte fun _ _ _ => h _ _ _

theorem readsAtMost_takeIv {osz : OSize} {f : Dword → List Byte → Nat → Decoded}
    (h : ∀ v bs n, ReadsAtMost k o bs n (f v bs n)) : ReadsAtMost (k + 4) o bs n (takeIv osz bs n f) := by
  cases osz with
  | o16 =>
    exact (readsAtMost_takeWord (f := fun v bs n => f (v.setWidth 32) bs n) fun _ _ _ => h _ _ _).mono (by omega)
  | o32 =>
    exact readsAtMost_takeWord (k := k + 2) (f := fun lo bs n => takeWord bs n fun hi bs n => f (hi ++ lo) bs n)
      fun _ _ _ => readsAtMost_takeWord fun _ _ _ => h _ _ _

theorem readsAtMost_takeForm {mod : BitVec 2} {rm : BitVec 3} {f : MemForm → List Byte → Nat → Decoded}
    (h : ∀ m bs n, ReadsAtMost k o bs n (f m bs n)) : ReadsAtMost (k + 2) o bs n (takeForm mod rm bs n f) := by
  unfold takeForm
  split
  · split
    · exact readsAtMost_takeWord fun _ _ _ => h _ _ _
    · exact (h _ _ _).mono (by omega)
  · exact (readsAtMost_takeByte fun _ _ _ => h _ _ _).mono (by omega)
  · exact readsAtMost_takeWord fun _ _ _ => h _ _ _

theorem readsAtMost_takeE {p : Prefixes} {mod : BitVec 2} {rm : BitVec 3} {f : RM → List Byte → Nat → Decoded}
    (h : ∀ e bs n, ReadsAtMost k o bs n (f e bs n)) : ReadsAtMost (k + 2) o bs n (takeE p mod rm bs n f) := by
  unfold takeE
  split
  · exact (h _ _ _).mono (by omega)
  · exact readsAtMost_takeForm fun _ _ _ => h _ _ _

end ReadsAtMost

/-! ## What a row answers -/

/-- The string opcodes, which take F2 and F3 (46_string.md R471). -/
def stringOpcodes : List Byte := [0xA4, 0xA5, 0xA6, 0xA7, 0xAA, 0xAB, 0xAC, 0xAD, 0xAE, 0xAF]

/-- The rows that are malformed at `n` bytes, as 30_encoding.md R171 lists them. -/
def MalformedRow (osz : OSize) (bs : List Byte) (n : Nat) : Prop :=
  ∃ (op b : Byte) (rest : List Byte),
    (n = 3 ∧ bs = 0x0F :: op :: b :: rest ∧ op ∈ ([0xB2, 0xB4, 0xB5] : List Byte) ∧ b.extractLsb' 6 2 = 3#2) ∨
    (n = 2 ∧ bs = op :: b :: rest ∧
      ((op ∈ ([0x8D, 0xC4, 0xC5] : List Byte) ∧ b.extractLsb' 6 2 = 3#2) ∨
        (osz = .o16 ∧
          ((op = 0xFF ∧ b.extractLsb' 6 2 = 3#2 ∧ (b.extractLsb' 3 3 = 3#3 ∨ b.extractLsb' 3 3 = 5#3)) ∨
            (op = 0x8C ∧ (b.extractLsb' 3 3 = 6#3 ∨ b.extractLsb' 3 3 = 7#3)) ∨
            (op = 0x8E ∧ (b.extractLsb' 3 3 = 1#3 ∨ b.extractLsb' 3 3 = 6#3 ∨ b.extractLsb' 3 3 = 7#3))))))

/-- What the row of opcode `op` can answer on the bytes `bs` after it: 0x66 is admitted on the rows of R172 alone,
F2 and F3 on the string rows alone, and the bytes can end before the row does. The byte that R172 looks at after the opcode is
`bs.headD 0`: a row that needs it and has none is cut off there. -/
inductive RowAnswer (p : Prefixes) (op : Byte) (bs : List Byte) : Decoded → Prop
  | ok (i : Instr) (n : Nat) (hosz : p.osz = .o32 → admitsOperandSize op (bs.headD 0) = true ∧ i.prefixes.osz = .o32)
      (hrep : p.rep = none ∨ op ∈ stringOpcodes) : RowAnswer p op bs (.ok i n)
  | unhandled (n : Nat) (h : p.osz = .o32 → p.rep = none → admitsOperandSize op (bs.headD 0) = false) :
      RowAnswer p op bs (.unhandled n)
  | malformed (n : Nat) (hosz : p.osz = .o32 → admitsOperandSize op (bs.headD 0) = true) (hrep : p.rep = none)
      (h : MalformedRow p.osz (op :: bs) n) : RowAnswer p op bs (.malformed n)
  | short (hlen : bs.length < 9) (hrep : p.rep = none ∨ bs.length < 2) : RowAnswer p op bs (.short (1 + bs.length))

section RowAnswer

variable {p : Prefixes} {op m : Byte} {bs rest : List Byte} {v : Bool} {n : Nat} {mod : BitVec 2} {rm : BitVec 3}

theorem rowAnswer_refused (h : admitsOperandSize op (bs.headD 0) = false) : RowAnswer p op bs (.unhandled n) :=
  .unhandled n fun _ _ => h

/-- Past the check of a row that does not admit 0x66 the operand size is 16. -/
theorem osz_eq_o16 (h : p.osz = .o32 → false = true) : p.osz = .o16 := by
  cases hosz : p.osz with
  | o16 => rfl
  | o32 => exact absurd (h hosz) nofun

/-- The row check refuses the prefixes that the row does not admit; past it the row admits its prefixes. -/
theorem rowAnswer_checkRow {d : Decoded} (hv : admitsOperandSize op (bs.headD 0) = v)
    (hd : (p.osz = .o32 → v = true) → p.rep = none → RowAnswer p op bs d) : RowAnswer p op bs (checkRow p v n d) := by
  unfold checkRow
  split
  case isTrue h => exact .unhandled n fun _ _ => hv.trans h.2
  case isFalse hosz =>
    split
    case isTrue hrep => exact .unhandled n fun _ h => absurd h hrep
    case isFalse hrep => exact hd (fun h => by simpa [h] using hosz) (Classical.not_not.mp hrep)

/-- Past the row check, operands of at most six bytes are read. -/
theorem rowAnswer_reads {d : Decoded} {k : Nat} {bs' : List Byte} (hv : admitsOperandSize op (bs.headD 0) = v)
    (hosz : p.osz = .o32 → v = true) (hrep : p.rep = none) (hn : 1 + bs.length = n + bs'.length)
    (h : ReadsAtMost k (bif v then p.osz else .o16) bs' n d) (hk : n + k ≤ 9) : RowAnswer p op bs d := by
  obtain ⟨i, m, rfl, hi⟩ | ⟨rfl, hlt⟩ := h
  · refine .ok i m (fun ho => ?_) (.inl hrep)
    have hv' := hosz ho
    exact ⟨hv.trans hv', by rw [hi, hv', ho]; rfl⟩
  · rw [← hn]
    exact .short (by omega) (.inl hrep)

theorem rowAnswer_checkedReads {d : Decoded} {k : Nat} {bs' : List Byte} (hv : admitsOperandSize op (bs.headD 0) = v)
    (hn : 1 + bs.length = n + bs'.length) (h : ReadsAtMost k (bif v then p.osz else .o16) bs' n d) (hk : n + k ≤ 9) :
    RowAnswer p op bs (checkRow p v n d) :=
  rowAnswer_checkRow hv fun hosz hrep => rowAnswer_reads hv hosz hrep hn h hk

/-! ### Rows without ModR/M -/

theorem rowAnswer_rowNone {i : Instr} (hv : ∀ b, admitsOperandSize op b = v)
    (hi : i.prefixes.osz = bif v then p.osz else .o16) : RowAnswer p op bs (rowNone p v 1 i) :=
  rowAnswer_checkedReads (hv _) rfl (readsAtMost_ok (k := 0) hi) (by omega)

theorem rowAnswer_rowIb {mk : Byte → Instr} (hv : ∀ b, admitsOperandSize op b = v)
    (hmk : ∀ b, (mk b).prefixes.osz = bif v then p.osz else .o16) : RowAnswer p op bs (rowIb p v bs 1 mk) :=
  rowAnswer_checkedReads (hv _) rfl (readsAtMost_takeByte (k := 0) fun _ _ _ => readsAtMost_ok (hmk _)) (by omega)

theorem rowAnswer_rowIw {mk : Word → Instr} (hv : ∀ b, admitsOperandSize op b = v)
    (hmk : ∀ w, (mk w).prefixes.osz = bif v then p.osz else .o16) : RowAnswer p op bs (rowIw p v bs 1 mk) :=
  rowAnswer_checkedReads (hv _) rfl (readsAtMost_takeWord (k := 0) fun _ _ _ => readsAtMost_ok (hmk _)) (by omega)

theorem rowAnswer_rowIv {mk : Dword → Instr} (hv : ∀ b, admitsOperandSize op b = true)
    (hmk : ∀ imm, (mk imm).prefixes.osz = p.osz) : RowAnswer p op bs (rowIv p bs 1 mk) :=
  rowAnswer_checkedReads (hv _) rfl (readsAtMost_takeIv (k := 0) fun _ _ _ => readsAtMost_ok (hmk _)) (by omega)

theorem rowAnswer_rowFar {mk : Word → Word → Instr} (hv : ∀ b, admitsOperandSize op b = false)
    (hmk : ∀ sel off, (mk sel off).prefixes.osz = .o16) : RowAnswer p op bs (rowFar p bs 1 mk) :=
  rowAnswer_checkedReads (hv _) rfl
    (readsAtMost_takeWord fun _ _ _ => readsAtMost_takeWord (k := 0) fun _ _ _ => readsAtMost_ok (hmk _ _)) (by omega)

/-- At operand size 16 a string row reads one of its instructions, or refuses F2. -/
theorem rowStringB_o16 (plain f3 : Instr) (f2 : Option Instr) (hosz : p.osz = .o16) :
    (∃ i, rowStringB p n plain f3 f2 = .ok i n ∧ (i = plain ∨ i = f3 ∨ f2 = some i)) ∨
      (rowStringB p n plain f3 f2 = .unhandled n ∧ p.rep ≠ none) := by
  unfold rowStringB
  rw [if_neg (by simp [hosz])]
  rcases p.rep with _ | _ | _
  · exact .inl ⟨plain, rfl, .inl rfl⟩
  · exact .inl ⟨f3, rfl, .inr (.inl rfl)⟩
  · cases f2 with
    | none => exact .inr ⟨rfl, nofun⟩
    | some i => exact .inl ⟨i, rfl, .inr (.inr rfl)⟩

theorem rowAnswer_rowStringB {plain f3 : Instr} {f2 : Option Instr} (hop : stringOpcodes.contains op = true)
    (hv : ∀ b, admitsOperandSize op b = false) : RowAnswer p op bs (rowStringB p 1 plain f3 f2) := by
  cases hosz : p.osz with
  | o16 =>
    obtain ⟨i, hi, -⟩ | ⟨hi, hrep⟩ := rowStringB_o16 (n := 1) plain f3 f2 hosz
    · rw [hi]; exact .ok i 1 (fun h => absurd (hosz.symm.trans h) nofun) (.inr (List.contains_iff_mem.mp hop))
    · rw [hi]; exact rowAnswer_refused (hv _)
  | o32 => unfold rowStringB; rw [if_pos hosz]; exact rowAnswer_refused (hv _)

theorem rowAnswer_rowStringV {wPlain wF3 dPlain dF3 : Instr} {wF2 dF2 : Option Instr}
    (hop : stringOpcodes.contains op = true) (hv : ∀ b, admitsOperandSize op b = true)
    (hplain : dPlain.prefixes.osz = .o32) (hf3 : dF3.prefixes.osz = .o32)
    (hf2 : (dF2.map Instr.prefixes).all (fun q => q.osz == .o32) = true) :
    RowAnswer p op bs (rowStringV p 1 wPlain wF3 wF2 dPlain dF3 dF2) := by
  unfold rowStringV
  split
  case h_1 hosz =>
    obtain ⟨i, hi, -⟩ | ⟨hi, hrep⟩ := rowStringB_o16 (n := 1) wPlain wF3 wF2 hosz
    · rw [hi]; exact .ok i 1 (fun h => absurd (hosz.symm.trans h) nofun) (.inr (List.contains_iff_mem.mp hop))
    · rw [hi]; exact .unhandled 1 fun _ h => absurd h hrep
  case h_2 =>
    obtain ⟨i, hi, hmem⟩ | ⟨hi, hrep⟩ := rowStringB_o16 (p := { p with osz := .o16 }) (n := 1) dPlain dF3 dF2 rfl
    · have hwide : i.prefixes.osz = .o32 := by
        obtain rfl | rfl | h := hmem
        · exact hplain
        · exact hf3
        · simpa [h] using hf2
      rw [hi]; exact .ok i 1 (fun _ => ⟨hv _, hwide⟩) (.inr (List.contains_iff_mem.mp hop))
    · rw [hi]; exact .unhandled 1 fun _ h => absurd h hrep

/-! ### Rows with ModR/M -/

theorem length_modRM (m : Byte) (rest : List Byte) : 1 + (m :: rest).length = 2 + rest.length := by
  rw [List.length_cons]; omega

theorem rowAnswer_takeModRM {f : BitVec 2 → BitVec 3 → BitVec 3 → List Byte → Nat → Decoded}
    (h : ∀ (m : Byte) (rest : List Byte),
      RowAnswer p op (m :: rest) (f (m.extractLsb' 6 2) (m.extractLsb' 3 3) (m.extractLsb' 0 3) rest 2)) :
    RowAnswer p op bs (takeModRM bs 1 f) := by
  cases bs with
  | nil => exact .short (by simp) (.inr (by simp))
  | cons m rest => exact h m rest

theorem rowAnswer_tailE {mk : RM → Instr} (hv : admitsOperandSize op m = v)
    (hmk : ∀ e, (mk e).prefixes.osz = bif v then p.osz else .o16) :
    RowAnswer p op (m :: rest) (tailE p v mod rm rest 2 mk) :=
  rowAnswer_checkedReads hv (length_modRM _ _)
    (readsAtMost_takeE (k := 0) fun _ _ _ => readsAtMost_ok (hmk _)) (by omega)

theorem rowAnswer_tailEIb {mk : RM → Byte → Instr} (hv : admitsOperandSize op m = v)
    (hmk : ∀ e b, (mk e b).prefixes.osz = bif v then p.osz else .o16) :
    RowAnswer p op (m :: rest) (tailEIb p v mod rm rest 2 mk) :=
  rowAnswer_checkedReads hv (length_modRM _ _)
    (readsAtMost_takeE fun _ _ _ => readsAtMost_takeByte (k := 0) fun _ _ _ => readsAtMost_ok (hmk _ _)) (by omega)

theorem rowAnswer_tailEIv {mk : RM → Dword → Instr} (hv : admitsOperandSize op m = true)
    (hmk : ∀ e imm, (mk e imm).prefixes.osz = p.osz) :
    RowAnswer p op (m :: rest) (tailEIv p mod rm rest 2 mk) :=
  rowAnswer_checkedReads hv (length_modRM _ _)
    (readsAtMost_takeE fun _ _ _ => readsAtMost_takeIv (k := 0) fun _ _ _ => readsAtMost_ok (hmk _ _)) (by omega)

/-- A row whose operand must be memory, ModR/M being byte `n - 1` of the unit. -/
theorem rowAnswer_tailM {bs' : List Byte} {mk : MemRef → Instr} (hv : admitsOperandSize op (bs.headD 0) = v)
    (hlen : 1 + bs.length = n + bs'.length) (hn : n ≤ 3)
    (hreg : (p.osz = .o32 → v = true) → mod = 3#2 → MalformedRow p.osz (op :: bs) n)
    (hmk : ∀ m, (mk m).prefixes.osz = bif v then p.osz else .o16) :
    RowAnswer p op bs (tailM p v mod rm bs' n mk) := by
  refine rowAnswer_checkRow hv fun hosz hrep => ?_
  split
  case isTrue hmod => exact .malformed n (fun h => hv.trans (hosz h)) hrep (hreg hosz hmod)
  case isFalse =>
    exact rowAnswer_reads hv hosz hrep hlen (readsAtMost_takeForm (k := 0) fun _ _ _ => readsAtMost_ok (hmk _)) (by omega)

theorem rowAnswer_rowEG {mk : RM → Reg → Instr} (hv : ∀ b, admitsOperandSize op b = v)
    (hmk : ∀ e g, (mk e g).prefixes.osz = bif v then p.osz else .o16) : RowAnswer p op bs (rowEG p v bs 1 mk) :=
  rowAnswer_takeModRM fun _ _ => rowAnswer_tailE (hv _) fun _ => hmk _ _

theorem rowAnswer_rowGM {mk : Reg → MemRef → Instr} (hop : ([0x8D, 0xC4, 0xC5] : List Byte).contains op = true)
    (hv : ∀ b, admitsOperandSize op b = true) (hmk : ∀ g m, (mk g m).prefixes.osz = p.osz) :
    RowAnswer p op bs (rowGM p bs 1 mk) :=
  rowAnswer_takeModRM fun m rest => rowAnswer_tailM (hv _) (length_modRM _ _) (by omega)
    (fun _ hmod => ⟨op, m, rest, .inr ⟨rfl, rfl, .inl ⟨List.contains_iff_mem.mp hop, hmod⟩⟩⟩) fun _ => hmk _ _

theorem SReg.ofCode_eq_none : ∀ c : BitVec 3, SReg.ofCode c = none → c = 6#3 ∨ c = 7#3 := by decide

theorem SReg.ofCode_eq_cs : ∀ c : BitVec 3, SReg.ofCode c = some .cs → c = 1#3 := by decide

theorem rowAnswer_rowFromSreg : RowAnswer p 0x8C bs (rowFromSreg p bs 1) := by
  refine rowAnswer_takeModRM fun m rest => rowAnswer_checkRow (v := false) rfl fun hosz hrep => ?_
  split
  case h_1 hreg =>
    exact .malformed 2 hosz hrep ⟨0x8C, m, rest, .inr ⟨rfl, rfl, .inr
      ⟨osz_eq_o16 hosz, .inr (.inl ⟨rfl, SReg.ofCode_eq_none _ hreg⟩)⟩⟩⟩
  case h_2 =>
    exact rowAnswer_reads (k := 2) (bs' := rest) rfl hosz hrep (length_modRM _ _)
      (readsAtMost_takeE (k := 0) fun _ _ _ => readsAtMost_ok rfl) (by omega)

theorem rowAnswer_rowToSreg : RowAnswer p 0x8E bs (rowToSreg p bs 1) := by
  refine rowAnswer_takeModRM fun m rest => rowAnswer_checkRow (v := false) rfl fun hosz hrep => ?_
  have hmalformed (hreg : m.extractLsb' 3 3 = 1#3 ∨ m.extractLsb' 3 3 = 6#3 ∨ m.extractLsb' 3 3 = 7#3) :
      RowAnswer p 0x8E (m :: rest) (.malformed 2) :=
    .malformed 2 hosz hrep ⟨0x8E, m, rest, .inr ⟨rfl, rfl, .inr ⟨osz_eq_o16 hosz, .inr (.inr ⟨rfl, hreg⟩)⟩⟩⟩
  split
  case h_1 hreg => exact hmalformed (.inr (SReg.ofCode_eq_none _ hreg))
  case h_2 hreg => exact hmalformed (.inl (SReg.ofCode_eq_cs _ hreg))
  case h_3 =>
    exact rowAnswer_reads (k := 2) (bs' := rest) rfl hosz hrep (length_modRM _ _)
      (readsAtMost_takeE (k := 0) fun _ _ _ => readsAtMost_ok rfl) (by omega)

theorem admitsOperandSize_0F (op2 : Byte) :
    admitsOperandSize 0x0F op2 = ([0xB2, 0xB4, 0xB5] : List Byte).contains op2 := by
  rw [Bool.eq_iff_iff]
  simp [admitsOperandSize, operandSizeOpcodes, or_assoc]

/-- A two-byte row, its operand memory (30_encoding.md R165). -/
theorem rowAnswer_rowGM_0F {op2 : Byte} {mk : Reg → MemRef → Instr}
    (hop : ([0xB2, 0xB4, 0xB5] : List Byte).contains op2 = true) (hmk : ∀ g m, (mk g m).prefixes.osz = p.osz) :
    RowAnswer p 0x0F (op2 :: bs) (rowGM p bs 2 mk) := by
  cases bs with
  | nil => exact .short (by simp) (.inr (by simp))
  | cons m rest =>
    exact rowAnswer_tailM ((admitsOperandSize_0F op2).trans hop) (by simp only [List.length_cons]; omega) (by omega)
      (fun _ hmod => ⟨op2, m, rest, .inl ⟨rfl, rfl, List.contains_iff_mem.mp hop, hmod⟩⟩) fun _ => hmk _ _

theorem rowAnswer_row0F : RowAnswer p 0x0F bs (row0F p bs 1) := by
  cases bs with
  | nil => exact .short (by simp) (.inr (by simp))
  | cons op2 rest =>
    unfold row0F takeByte
    dsimp only
    split
    case h_1 hop =>
      obtain rfl : op2 = 0xB2 := BitVec.eq_of_toNat_eq hop
      exact rowAnswer_rowGM_0F rfl fun _ _ => rfl
    case h_2 hop =>
      obtain rfl : op2 = 0xB4 := BitVec.eq_of_toNat_eq hop
      exact rowAnswer_rowGM_0F rfl fun _ _ => rfl
    case h_3 hop =>
      obtain rfl : op2 = 0xB5 := BitVec.eq_of_toNat_eq hop
      exact rowAnswer_rowGM_0F rfl fun _ _ => rfl
    case h_4 hB2 hB4 hB5 =>
      refine rowAnswer_refused ((admitsOperandSize_0F op2).trans ?_)
      simpa [← BitVec.toNat_inj] using And.intro hB2 (And.intro hB4 hB5)

/-! ### Groups (30_encoding.md R160-R164) -/

/-- In a group 0x66 is admitted by the slot. -/
theorem admitsOperandSize_of_slot {slot : Fin 8} (hop : (op == 0x0F) = false)
    (hm : m.extractLsb' 3 3 = BitVec.ofFin slot) :
    admitsOperandSize op m = admitsOperandSize op (BitVec.ofNat 8 (8 * slot)) := by
  have hslot : ∀ slot : Fin 8, (BitVec.ofNat 8 (8 * slot)).extractLsb' 3 3 = BitVec.ofFin slot := by decide
  simp only [admitsOperandSize, hop, hm, hslot, Bool.false_and]

/-- The rows of a group, one for each slot of ModR/M. -/
theorem rowAnswer_group {f : BitVec 2 → BitVec 3 → BitVec 3 → List Byte → Nat → Decoded} (hop : (op == 0x0F) = false)
    (h : ∀ (m : Byte) (rest : List Byte) (slot : Fin 8), m.extractLsb' 3 3 = BitVec.ofFin slot →
      admitsOperandSize op m = admitsOperandSize op (BitVec.ofNat 8 (8 * slot)) →
      RowAnswer p op (m :: rest) (f (m.extractLsb' 6 2) (BitVec.ofFin slot) (m.extractLsb' 0 3) rest 2)) :
    RowAnswer p op bs (takeModRM bs 1 f) :=
  rowAnswer_takeModRM fun m rest => h m rest (m.extractLsb' 3 3).toFin rfl (admitsOperandSize_of_slot hop rfl)

theorem rowAnswer_group80 : RowAnswer p 0x80 bs (group80 p bs 1) :=
  rowAnswer_group rfl fun _ _ slot _ hv =>
    match slot, hv with
    | 0, hv | 1, hv | 2, hv | 3, hv | 4, hv | 5, hv | 6, hv | 7, hv => rowAnswer_tailEIb hv fun _ _ => rfl

theorem rowAnswer_group81 : RowAnswer p 0x81 bs (group81 p bs 1) :=
  rowAnswer_group rfl fun _ _ slot _ hv =>
    match slot, hv with
    | 0, hv | 1, hv | 2, hv | 3, hv | 4, hv | 5, hv | 6, hv | 7, hv => rowAnswer_tailEIv hv fun _ _ => rfl

theorem rowAnswer_group83 : RowAnswer p 0x83 bs (group83 p bs 1) :=
  rowAnswer_group rfl fun _ _ slot _ hv =>
    match slot, hv with
    | 0, hv | 1, hv | 2, hv | 3, hv | 4, hv | 5, hv | 6, hv | 7, hv => rowAnswer_tailEIb hv fun _ _ => rfl

theorem rowAnswer_groupC0 : RowAnswer p 0xC0 bs (groupC0 p bs 1) :=
  rowAnswer_group rfl fun _ _ slot _ hv =>
    match slot, hv with
    | 0, hv | 1, hv | 2, hv | 3, hv | 4, hv | 5, hv | 7, hv => rowAnswer_tailEIb hv fun _ _ => rfl
    | 6, hv => rowAnswer_refused hv

theorem rowAnswer_groupC1 : RowAnswer p 0xC1 bs (groupC1 p bs 1) :=
  rowAnswer_group rfl fun _ _ slot _ hv =>
    match slot, hv with
    | 0, hv | 1, hv | 2, hv | 3, hv | 4, hv | 5, hv | 7, hv => rowAnswer_tailEIb hv fun _ _ => rfl
    | 6, hv => rowAnswer_refused hv

theorem rowAnswer_groupD0 : RowAnswer p 0xD0 bs (groupD0 p bs 1) :=
  rowAnswer_group rfl fun _ _ slot _ hv =>
    match slot, hv with
    | 0, hv | 1, hv | 2, hv | 3, hv | 4, hv | 5, hv | 7, hv => rowAnswer_tailE hv fun _ => rfl
    | 6, hv => rowAnswer_refused hv

theorem rowAnswer_groupD1 : RowAnswer p 0xD1 bs (groupD1 p bs 1) :=
  rowAnswer_group rfl fun _ _ slot _ hv =>
    match slot, hv with
    | 0, hv | 1, hv | 2, hv | 3, hv | 4, hv | 5, hv | 7, hv => rowAnswer_tailE hv fun _ => rfl
    | 6, hv => rowAnswer_refused hv

theorem rowAnswer_groupD2 : RowAnswer p 0xD2 bs (groupD2 p bs 1) :=
  rowAnswer_group rfl fun _ _ slot _ hv =>
    match slot, hv with
    | 0, hv | 1, hv | 2, hv | 3, hv | 4, hv | 5, hv | 7, hv => rowAnswer_tailE hv fun _ => rfl
    | 6, hv => rowAnswer_refused hv

theorem rowAnswer_groupD3 : RowAnswer p 0xD3 bs (groupD3 p bs 1) :=
  rowAnswer_group rfl fun _ _ slot _ hv =>
    match slot, hv with
    | 0, hv | 1, hv | 2, hv | 3, hv | 4, hv | 5, hv | 7, hv => rowAnswer_tailE hv fun _ => rfl
    | 6, hv => rowAnswer_refused hv

theorem rowAnswer_groupF6 : RowAnswer p 0xF6 bs (groupF6 p bs 1) :=
  rowAnswer_group rfl fun _ _ slot _ hv =>
    match slot, hv with
    | 0, hv => rowAnswer_tailEIb hv fun _ _ => rfl
    | 2, hv | 3, hv | 4, hv | 5, hv | 6, hv | 7, hv => rowAnswer_tailE hv fun _ => rfl
    | 1, hv => rowAnswer_refused hv

theorem rowAnswer_groupF7 : RowAnswer p 0xF7 bs (groupF7 p bs 1) :=
  rowAnswer_group rfl fun _ _ slot _ hv =>
    match slot, hv with
    | 0, hv => rowAnswer_tailEIv hv fun _ _ => rfl
    | 2, hv | 3, hv | 4, hv | 5, hv | 6, hv | 7, hv => rowAnswer_tailE hv fun _ => rfl
    | 1, hv => rowAnswer_refused hv

theorem rowAnswer_groupFE : RowAnswer p 0xFE bs (groupFE p bs 1) :=
  rowAnswer_group rfl fun _ _ slot _ hv =>
    match slot, hv with
    | 0, hv | 1, hv => rowAnswer_tailE hv fun _ => rfl
    | 2, hv | 3, hv | 4, hv | 5, hv | 6, hv | 7, hv => rowAnswer_refused hv

theorem rowAnswer_group8F : RowAnswer p 0x8F bs (group8F p bs 1) :=
  rowAnswer_group rfl fun _ _ slot _ hv =>
    match slot, hv with
    | 0, hv => rowAnswer_tailE hv fun _ => rfl
    | 1, hv | 2, hv | 3, hv | 4, hv | 5, hv | 6, hv | 7, hv => rowAnswer_refused hv

theorem rowAnswer_groupC6 : RowAnswer p 0xC6 bs (groupC6 p bs 1) :=
  rowAnswer_group rfl fun _ _ slot _ hv =>
    match slot, hv with
    | 0, hv => rowAnswer_tailEIb hv fun _ _ => rfl
    | 1, hv | 2, hv | 3, hv | 4, hv | 5, hv | 6, hv | 7, hv => rowAnswer_refused hv

theorem rowAnswer_groupC7 : RowAnswer p 0xC7 bs (groupC7 p bs 1) :=
  rowAnswer_group rfl fun _ _ slot _ hv =>
    match slot, hv with
    | 0, hv => rowAnswer_tailEIv hv fun _ _ => rfl
    | 1, hv | 2, hv | 3, hv | 4, hv | 5, hv | 6, hv | 7, hv => rowAnswer_refused hv

theorem rowAnswer_groupFF : RowAnswer p 0xFF bs (groupFF p bs 1) :=
  rowAnswer_group rfl fun m rest slot hm hv => by
    have hreg (hosz : p.osz = .o32 → false = true) (hslot : m.extractLsb' 3 3 = 3#3 ∨ m.extractLsb' 3 3 = 5#3)
        (hmod : m.extractLsb' 6 2 = 3#2) : MalformedRow p.osz (0xFF :: m :: rest) 2 :=
      ⟨0xFF, m, rest, .inr ⟨rfl, rfl, .inr ⟨osz_eq_o16 hosz, .inl ⟨rfl, hmod, hslot⟩⟩⟩⟩
    exact match slot, hm, hv with
    | 0, _, hv | 1, _, hv | 2, _, hv | 4, _, hv | 6, _, hv => rowAnswer_tailE hv fun _ => rfl
    | 3, hm, hv => rowAnswer_tailM hv (length_modRM m rest) (by omega) (fun hosz => hreg hosz (.inl hm)) fun _ => rfl
    | 5, hm, hv => rowAnswer_tailM hv (length_modRM m rest) (by omega) (fun hosz => hreg hosz (.inr hm)) fun _ => rfl
    | 7, _, hv => rowAnswer_refused hv

/-! ### The opcode map (30_encoding.md R140-R143) -/

theorem rowAnswer_opcodes0 {lo : Nat} (hlo : lo < 16) :
    RowAnswer p (BitVec.ofNat 8 (16 * 0x0 + lo)) bs (opcodes0 p bs 1 lo) := by
  unfold opcodes0
  exact match lo, hlo with
  | 0x0, _ | 0x1, _ | 0x2, _ | 0x3, _ | 0x8, _ | 0x9, _ | 0xA, _ | 0xB, _ =>
    rowAnswer_rowEG (fun _ => rfl) fun _ _ => rfl
  | 0x4, _ | 0xC, _ => rowAnswer_rowIb (fun _ => rfl) fun _ => rfl
  | 0x5, _ | 0xD, _ => rowAnswer_rowIv (fun _ => rfl) fun _ => rfl
  | 0x6, _ | 0x7, _ | 0xE, _ => rowAnswer_rowNone (fun _ => rfl) rfl
  | 0xF, _ => rowAnswer_row0F
  | _ + 16, h => absurd h (by omega)

theorem rowAnswer_opcodes1 {lo : Nat} (hlo : lo < 16) :
    RowAnswer p (BitVec.ofNat 8 (16 * 0x1 + lo)) bs (opcodes1 p bs 1 lo) := by
  unfold opcodes1
  exact match lo, hlo with
  | 0x0, _ | 0x1, _ | 0x2, _ | 0x3, _ | 0x8, _ | 0x9, _ | 0xA, _ | 0xB, _ =>
    rowAnswer_rowEG (fun _ => rfl) fun _ _ => rfl
  | 0x4, _ | 0xC, _ => rowAnswer_rowIb (fun _ => rfl) fun _ => rfl
  | 0x5, _ | 0xD, _ => rowAnswer_rowIv (fun _ => rfl) fun _ => rfl
  | 0x6, _ | 0x7, _ | 0xE, _ | 0xF, _ => rowAnswer_rowNone (fun _ => rfl) rfl
  | _ + 16, h => absurd h (by omega)

theorem rowAnswer_opcodes2 {lo : Nat} (hlo : lo < 16)
    (hop : prefixBytes.contains (BitVec.ofNat 8 (16 * 0x2 + lo)) = false) :
    RowAnswer p (BitVec.ofNat 8 (16 * 0x2 + lo)) bs (opcodes2 p bs 1 lo) := by
  unfold opcodes2
  exact match lo, hlo, hop with
  | 0x0, _, _ | 0x1, _, _ | 0x2, _, _ | 0x3, _, _ | 0x8, _, _ | 0x9, _, _ | 0xA, _, _ | 0xB, _, _ =>
    rowAnswer_rowEG (fun _ => rfl) fun _ _ => rfl
  | 0x4, _, _ | 0xC, _, _ => rowAnswer_rowIb (fun _ => rfl) fun _ => rfl
  | 0x5, _, _ | 0xD, _, _ => rowAnswer_rowIv (fun _ => rfl) fun _ => rfl
  | 0x6, _, hop | 0xE, _, hop => (Bool.eq_false_iff.mp hop rfl).elim
  | 0x7, _, _ | 0xF, _, _ => rowAnswer_refused rfl
  | _ + 16, h, _ => absurd h (by omega)

theorem rowAnswer_opcodes3 {lo : Nat} (hlo : lo < 16)
    (hop : prefixBytes.contains (BitVec.ofNat 8 (16 * 0x3 + lo)) = false) :
    RowAnswer p (BitVec.ofNat 8 (16 * 0x3 + lo)) bs (opcodes3 p bs 1 lo) := by
  unfold opcodes3
  exact match lo, hlo, hop with
  | 0x0, _, _ | 0x1, _, _ | 0x2, _, _ | 0x3, _, _ | 0x8, _, _ | 0x9, _, _ | 0xA, _, _ | 0xB, _, _ =>
    rowAnswer_rowEG (fun _ => rfl) fun _ _ => rfl
  | 0x4, _, _ | 0xC, _, _ => rowAnswer_rowIb (fun _ => rfl) fun _ => rfl
  | 0x5, _, _ | 0xD, _, _ => rowAnswer_rowIv (fun _ => rfl) fun _ => rfl
  | 0x6, _, hop | 0xE, _, hop => (Bool.eq_false_iff.mp hop rfl).elim
  | 0x7, _, _ | 0xF, _, _ => rowAnswer_refused rfl
  | _ + 16, h, _ => absurd h (by omega)

theorem rowAnswer_opcodes4 {lo : Nat} (hlo : lo < 16) :
    RowAnswer p (BitVec.ofNat 8 (16 * 0x4 + lo)) bs (opcodes4 p bs 1 lo) := by
  unfold opcodes4
  exact match lo, hlo with
  | 0x0, _ | 0x1, _ | 0x2, _ | 0x3, _ | 0x4, _ | 0x5, _ | 0x6, _ | 0x7, _ | 0x8, _ | 0x9, _ | 0xA, _ | 0xB, _
  | 0xC, _ | 0xD, _ | 0xE, _ | 0xF, _ => rowAnswer_rowNone (fun _ => rfl) rfl
  | _ + 16, h => absurd h (by omega)

theorem rowAnswer_opcodes5 {lo : Nat} (hlo : lo < 16) :
    RowAnswer p (BitVec.ofNat 8 (16 * 0x5 + lo)) bs (opcodes5 p bs 1 lo) := by
  unfold opcodes5
  exact match lo, hlo with
  | 0x0, _ | 0x1, _ | 0x2, _ | 0x3, _ | 0x4, _ | 0x5, _ | 0x6, _ | 0x7, _ | 0x8, _ | 0x9, _ | 0xA, _ | 0xB, _
  | 0xC, _ | 0xD, _ | 0xE, _ | 0xF, _ => rowAnswer_rowNone (fun _ => rfl) rfl
  | _ + 16, h => absurd h (by omega)

theorem rowAnswer_opcodes6 {lo : Nat} (hlo : lo < 16)
    (hop : prefixBytes.contains (BitVec.ofNat 8 (16 * 0x6 + lo)) = false) :
    RowAnswer p (BitVec.ofNat 8 (16 * 0x6 + lo)) bs (opcodes6 p bs 1 lo) := by
  unfold opcodes6
  exact match lo, hlo, hop with
  | 0x4, _, hop | 0x5, _, hop | 0x6, _, hop => (Bool.eq_false_iff.mp hop rfl).elim
  | 0x0, _, _ | 0x1, _, _ | 0x2, _, _ | 0x3, _, _ | 0x7, _, _ | 0x8, _, _ | 0x9, _, _ | 0xA, _, _ | 0xB, _, _
  | 0xC, _, _ | 0xD, _, _ | 0xE, _, _ | 0xF, _, _ => rowAnswer_refused rfl
  | _ + 16, h, _ => absurd h (by omega)

theorem rowAnswer_opcodes7 {lo : Nat} (hlo : lo < 16) :
    RowAnswer p (BitVec.ofNat 8 (16 * 0x7 + lo)) bs (opcodes7 p bs 1 lo) := by
  unfold opcodes7
  exact match lo, hlo with
  | 0x0, _ | 0x1, _ | 0x2, _ | 0x3, _ | 0x4, _ | 0x5, _ | 0x6, _ | 0x7, _ | 0x8, _ | 0x9, _ | 0xA, _ | 0xB, _
  | 0xC, _ | 0xD, _ | 0xE, _ | 0xF, _ => rowAnswer_rowIb (fun _ => rfl) fun _ => rfl
  | _ + 16, h => absurd h (by omega)

theorem rowAnswer_opcodes8 {lo : Nat} (hlo : lo < 16) :
    RowAnswer p (BitVec.ofNat 8 (16 * 0x8 + lo)) bs (opcodes8 p bs 1 lo) := by
  unfold opcodes8
  exact match lo, hlo with
  | 0x0, _ => rowAnswer_group80
  | 0x1, _ => rowAnswer_group81
  | 0x3, _ => rowAnswer_group83
  | 0x4, _ | 0x5, _ | 0x6, _ | 0x7, _ | 0x8, _ | 0x9, _ | 0xA, _ | 0xB, _ =>
    rowAnswer_rowEG (fun _ => rfl) fun _ _ => rfl
  | 0xC, _ => rowAnswer_rowFromSreg
  | 0xD, _ => rowAnswer_rowGM rfl (fun _ => rfl) fun _ _ => rfl
  | 0xE, _ => rowAnswer_rowToSreg
  | 0xF, _ => rowAnswer_group8F
  | 0x2, _ => rowAnswer_refused rfl
  | _ + 16, h => absurd h (by omega)

theorem rowAnswer_opcodes9 {lo : Nat} (hlo : lo < 16) :
    RowAnswer p (BitVec.ofNat 8 (16 * 0x9 + lo)) bs (opcodes9 p bs 1 lo) := by
  unfold opcodes9
  exact match lo, hlo with
  | 0x0, _ | 0x1, _ | 0x2, _ | 0x3, _ | 0x4, _ | 0x5, _ | 0x6, _ | 0x7, _ | 0xC, _ | 0xD, _ | 0xE, _ | 0xF, _ =>
    rowAnswer_rowNone (fun _ => rfl) rfl
  | 0x8, _ | 0x9, _ => rowAnswer_rowNone (fun _ => rfl) (by cases p.osz <;> rfl)
  | 0xA, _ => rowAnswer_rowFar (fun _ => rfl) fun _ _ => rfl
  | 0xB, _ => rowAnswer_refused rfl
  | _ + 16, h => absurd h (by omega)

theorem rowAnswer_opcodesA {lo : Nat} (hlo : lo < 16) :
    RowAnswer p (BitVec.ofNat 8 (16 * 0xA + lo)) bs (opcodesA p bs 1 lo) := by
  unfold opcodesA
  exact match lo, hlo with
  | 0x0, _ | 0x1, _ | 0x2, _ | 0x3, _ => rowAnswer_rowIw (fun _ => rfl) fun _ => rfl
  | 0x4, _ | 0x6, _ | 0xA, _ | 0xC, _ | 0xE, _ => rowAnswer_rowStringB rfl fun _ => rfl
  | 0x5, _ | 0x7, _ | 0xB, _ | 0xD, _ | 0xF, _ => rowAnswer_rowStringV rfl (fun _ => rfl) rfl rfl rfl
  | 0x8, _ => rowAnswer_rowIb (fun _ => rfl) fun _ => rfl
  | 0x9, _ => rowAnswer_rowIv (fun _ => rfl) fun _ => rfl
  | _ + 16, h => absurd h (by omega)

theorem rowAnswer_opcodesB {lo : Nat} (hlo : lo < 16) :
    RowAnswer p (BitVec.ofNat 8 (16 * 0xB + lo)) bs (opcodesB p bs 1 lo) := by
  unfold opcodesB
  exact match lo, hlo with
  | 0x0, _ | 0x1, _ | 0x2, _ | 0x3, _ | 0x4, _ | 0x5, _ | 0x6, _ | 0x7, _ =>
    rowAnswer_rowIb (fun _ => rfl) fun _ => rfl
  | 0x8, _ | 0x9, _ | 0xA, _ | 0xB, _ | 0xC, _ | 0xD, _ | 0xE, _ | 0xF, _ =>
    rowAnswer_rowIv (fun _ => rfl) fun _ => rfl
  | _ + 16, h => absurd h (by omega)

theorem rowAnswer_opcodesC {lo : Nat} (hlo : lo < 16) :
    RowAnswer p (BitVec.ofNat 8 (16 * 0xC + lo)) bs (opcodesC p bs 1 lo) := by
  unfold opcodesC
  exact match lo, hlo with
  | 0x0, _ => rowAnswer_groupC0
  | 0x1, _ => rowAnswer_groupC1
  | 0x2, _ | 0xA, _ => rowAnswer_rowIw (fun _ => rfl) fun _ => rfl
  | 0x3, _ | 0xB, _ | 0xC, _ | 0xE, _ | 0xF, _ => rowAnswer_rowNone (fun _ => rfl) rfl
  | 0x4, _ | 0x5, _ => rowAnswer_rowGM rfl (fun _ => rfl) fun _ _ => rfl
  | 0x6, _ => rowAnswer_groupC6
  | 0x7, _ => rowAnswer_groupC7
  | 0xD, _ => rowAnswer_rowIb (fun _ => rfl) fun _ => rfl
  | 0x8, _ | 0x9, _ => rowAnswer_refused rfl
  | _ + 16, h => absurd h (by omega)

theorem rowAnswer_opcodesD {lo : Nat} (hlo : lo < 16) :
    RowAnswer p (BitVec.ofNat 8 (16 * 0xD + lo)) bs (opcodesD p bs 1 lo) := by
  unfold opcodesD
  exact match lo, hlo with
  | 0x0, _ => rowAnswer_groupD0
  | 0x1, _ => rowAnswer_groupD1
  | 0x2, _ => rowAnswer_groupD2
  | 0x3, _ => rowAnswer_groupD3
  | 0x7, _ => rowAnswer_rowNone (fun _ => rfl) rfl
  | 0x4, _ | 0x5, _ | 0x6, _ | 0x8, _ | 0x9, _ | 0xA, _ | 0xB, _ | 0xC, _ | 0xD, _ | 0xE, _ | 0xF, _ =>
    rowAnswer_refused rfl
  | _ + 16, h => absurd h (by omega)

theorem rowAnswer_opcodesE {lo : Nat} (hlo : lo < 16) :
    RowAnswer p (BitVec.ofNat 8 (16 * 0xE + lo)) bs (opcodesE p bs 1 lo) := by
  unfold opcodesE
  exact match lo, hlo with
  | 0x0, _ | 0x1, _ | 0x2, _ | 0x3, _ | 0xB, _ => rowAnswer_rowIb (fun _ => rfl) fun _ => rfl
  | 0x8, _ | 0x9, _ => rowAnswer_rowIw (fun _ => rfl) fun _ => rfl
  | 0xA, _ => rowAnswer_rowFar (fun _ => rfl) fun _ _ => rfl
  | 0x4, _ | 0x5, _ | 0x6, _ | 0x7, _ | 0xC, _ | 0xD, _ | 0xE, _ | 0xF, _ => rowAnswer_refused rfl
  | _ + 16, h => absurd h (by omega)

theorem rowAnswer_opcodesF {lo : Nat} (hlo : lo < 16)
    (hop : prefixBytes.contains (BitVec.ofNat 8 (16 * 0xF + lo)) = false) :
    RowAnswer p (BitVec.ofNat 8 (16 * 0xF + lo)) bs (opcodesF p bs 1 lo) := by
  unfold opcodesF
  exact match lo, hlo, hop with
  | 0x2, _, hop | 0x3, _, hop => (Bool.eq_false_iff.mp hop rfl).elim
  | 0x4, _, _ | 0x5, _, _ | 0x8, _, _ | 0x9, _, _ | 0xA, _, _ | 0xB, _, _ | 0xC, _, _ | 0xD, _, _ =>
    rowAnswer_rowNone (fun _ => rfl) rfl
  | 0x6, _, _ => rowAnswer_groupF6
  | 0x7, _, _ => rowAnswer_groupF7
  | 0xE, _, _ => rowAnswer_groupFE
  | 0xF, _, _ => rowAnswer_groupFF
  | 0x0, _, _ | 0x1, _, _ => rowAnswer_refused rfl
  | _ + 16, h, _ => absurd h (by omega)

/-- Every opcode but the prefixes has a row. -/
theorem rowAnswer_decodeOpcode (hop : op ∉ prefixBytes) : RowAnswer p op bs (decodeOpcode p op bs 1) := by
  have hhi : op.toNat / 16 < 16 := by have := op.isLt; omega
  have hlo : op.toNat % 16 < 16 := Nat.mod_lt _ (by omega)
  have heq : op = BitVec.ofNat 8 (16 * (op.toNat / 16) + op.toNat % 16) := by
    rw [Nat.div_add_mod, BitVec.ofNat_toNat, BitVec.setWidth_eq]
  have hop' : prefixBytes.contains op = false := by simpa using hop
  unfold decodeOpcode
  dsimp only
  generalize op.toNat / 16 = hi at hhi heq ⊢
  generalize op.toNat % 16 = lo at hlo heq ⊢
  subst heq
  exact match hi, hhi, hop' with
  | 0x0, _, _ => rowAnswer_opcodes0 hlo
  | 0x1, _, _ => rowAnswer_opcodes1 hlo
  | 0x2, _, hop => rowAnswer_opcodes2 hlo hop
  | 0x3, _, hop => rowAnswer_opcodes3 hlo hop
  | 0x4, _, _ => rowAnswer_opcodes4 hlo
  | 0x5, _, _ => rowAnswer_opcodes5 hlo
  | 0x6, _, hop => rowAnswer_opcodes6 hlo hop
  | 0x7, _, _ => rowAnswer_opcodes7 hlo
  | 0x8, _, _ => rowAnswer_opcodes8 hlo
  | 0x9, _, _ => rowAnswer_opcodes9 hlo
  | 0xA, _, _ => rowAnswer_opcodesA hlo
  | 0xB, _, _ => rowAnswer_opcodesB hlo
  | 0xC, _, _ => rowAnswer_opcodesC hlo
  | 0xD, _, _ => rowAnswer_opcodesD hlo
  | 0xE, _, _ => rowAnswer_opcodesE hlo
  | 0xF, _, hop => rowAnswer_opcodesF hlo hop
  | _ + 16, h, _ => absurd h (by omega)

theorem rowAnswer_decodeUnit (hop : op ∉ prefixBytes) : RowAnswer p op bs (decodeUnit p (op :: bs)) :=
  rowAnswer_decodeOpcode hop

end RowAnswer

/-! ## Prefixes (30_encoding.md R111, R112) -/

/-- The byte of each of the prefixes is a unit of its own, whatever prefixes were read before it. -/
theorem decodeUnit_prefixByte (p : Prefixes) (q : Prefix) (bs : List Byte) :
    ∃ i, decodeUnit p (prefixByte q :: bs) = .ok i 1 ∧ i.asPrefix = some q := by
  cases q with
  | seg r => cases r <;> exact ⟨_, rfl, rfl⟩
  | opSize => exact ⟨_, rfl, rfl⟩
  | repZ => exact ⟨_, rfl, rfl⟩
  | repNZ => exact ⟨_, rfl, rfl⟩

theorem exists_prefixByte_eq {op : Byte} (hop : op ∈ prefixBytes) : ∃ q, prefixByte q = op := by
  have hall : prefixBytes = ([.seg .es, .seg .cs, .seg .ss, .seg .ds, .seg .fs, .seg .gs, .opSize, .repNZ, .repZ] :
      List Prefix).map prefixByte := rfl
  rw [hall, List.mem_map] at hop
  obtain ⟨q, -, hq⟩ := hop
  exact ⟨q, hq⟩

/-- A unit is one byte of the prefixes or has a row's answer. -/
theorem decodeUnit_cases (p : Prefixes) (op : Byte) (bs : List Byte) :
    (∃ i q, decodeUnit p (op :: bs) = .ok i 1 ∧ i.asPrefix = some q) ∨
      RowAnswer p op bs (decodeUnit p (op :: bs)) := by
  by_cases hop : op ∈ prefixBytes
  · obtain ⟨q, rfl⟩ := exists_prefixByte_eq hop
    obtain ⟨i, hi, hq⟩ := decodeUnit_prefixByte p q bs
    exact .inl ⟨i, q, hi, hq⟩
  · exact .inr (rowAnswer_decodeUnit hop)

theorem decodeUnits_prefixBytes (qs : List Prefix) (p : Prefixes) (bs : List Byte) (fuel n : Nat) :
    decodeUnits (qs.length + fuel) p (qs.map prefixByte ++ bs) n =
      decodeUnits fuel (qs.foldl Prefixes.collect p) bs (n + qs.length) := by
  induction qs generalizing p n with
  | nil => simp
  | cons q qs ih =>
    obtain ⟨i, hi, hq⟩ := decodeUnit_prefixByte p q (qs.map prefixByte ++ bs)
    rw [List.length_cons, Nat.add_right_comm, decodeUnits, List.map_cons, List.cons_append, hi]
    simp only [hq, List.drop_succ_cons, List.drop_zero, ih, List.foldl_cons, Nat.add_assoc, Nat.add_comm 1]

/-- The last of a list's values stands before a default that the first element may have set. -/
theorem getLast?_filterMap_cons_or {α : Type} (f : Prefix → Option α) (q : Prefix) (qs : List Prefix) (o : Option α) :
    ((q :: qs).filterMap f).getLast?.or o = (qs.filterMap f).getLast?.or ((f q).or o) := by
  cases hq : f q with
  | none => rw [List.filterMap_cons_none hq, Option.none_or]
  | some a =>
    rw [List.filterMap_cons_some hq, List.getLast?_cons, Option.some_or, Option.some_or]
    cases (qs.filterMap f).getLast? <;> rfl

theorem collect_segOvr (p : Prefixes) (q : Prefix) : (p.collect q).segOvr = (prefixSegment q).or p.segOvr := by
  cases q <;> rfl

theorem collect_rep (p : Prefixes) (q : Prefix) : (p.collect q).rep = (prefixRepeat q).or p.rep := by
  cases q <;> rfl

theorem collect_osz (p : Prefixes) (q : Prefix) : (p.collect q).osz = .o32 ↔ q = .opSize ∨ p.osz = .o32 := by
  cases q <;> simp [Prefixes.collect]

/-- What a list of prefixes makes of those already read. -/
theorem foldl_collect (qs : List Prefix) (p : Prefixes) :
    (qs.foldl Prefixes.collect p).segOvr = (qs.filterMap prefixSegment).getLast?.or p.segOvr ∧
      ((qs.foldl Prefixes.collect p).osz = .o32 ↔ Prefix.opSize ∈ qs ∨ p.osz = .o32) ∧
      (qs.foldl Prefixes.collect p).rep = (qs.filterMap prefixRepeat).getLast?.or p.rep := by
  induction qs generalizing p with
  | nil => simp
  | cons q qs ih =>
    obtain ⟨hseg, hosz, hrep⟩ := ih (p.collect q)
    rw [List.foldl_cons, hseg, hosz, hrep, collect_segOvr, collect_rep, collect_osz, getLast?_filterMap_cons_or,
      getLast?_filterMap_cons_or, List.mem_cons, @eq_comm _ q, or_left_comm, or_assoc]
    exact ⟨rfl, Iff.rfl, rfl⟩

/-- Settles O4, by induction on the prefixes as the decoder reads them: each overrides what was read before it. -/
theorem prefixesCollectInOrder : Obligations.PrefixesCollectInOrder := fun qs bs fuel n =>
  ⟨decodeUnits_prefixBytes qs {} bs fuel n, by
    obtain ⟨hseg, hosz, hrep⟩ := foldl_collect qs {}
    exact ⟨hseg.trans Option.or_none, hosz.trans ⟨fun h => h.resolve_right nofun, .inl⟩,
      hrep.trans Option.or_none⟩⟩

/-! ## Malformed encodings (30_encoding.md R171) -/

theorem malformedRow_of_decodeUnit {p : Prefixes} {bs : List Byte} {n : Nat} (h : decodeUnit p bs = .malformed n) :
    p.rep = none ∧ MalformedRow p.osz bs n := by
  cases bs with
  | nil => cases h
  | cons op bs =>
    obtain ⟨i, q, hi, -⟩ | hrow := decodeUnit_cases p op bs
    · rw [hi] at h; cases h
    · rw [h] at hrow
      cases hrow with
      | malformed _ _ hrep hrow => exact ⟨hrep, hrow⟩

theorem tailM_malformed {p : Prefixes} {v : Bool} {mod : BitVec 2} {rm : BitVec 3} {bs : List Byte} {n : Nat}
    {mk : MemRef → Instr} (hosz : p.osz = .o32 → v = true) (hrep : p.rep = none) (hmod : mod = 3#2) :
    tailM p v mod rm bs n mk = .malformed n :=
  (checkRow_ok p v n _ hosz hrep).trans (if_pos hmod)

section Malformed

variable {p : Prefixes} {b : Byte} {rest : List Byte} (hosz : p.osz = .o16) (hrep : p.rep = none)

include hosz hrep

theorem groupFF_malformed (hmod : b.extractLsb' 6 2 = 3#2) (hreg : b.extractLsb' 3 3 = 3#3 ∨ b.extractLsb' 3 3 = 5#3) :
    decodeUnit p (0xFF :: b :: rest) = .malformed 2 := by
  change groupFF p (b :: rest) 1 = _
  simp only [groupFF, takeModRM, takeByte]
  obtain h | h := hreg <;> rw [h] <;> exact tailM_malformed (by simp [hosz]) hrep hmod

theorem rowFromSreg_malformed (hreg : b.extractLsb' 3 3 = 6#3 ∨ b.extractLsb' 3 3 = 7#3) :
    decodeUnit p (0x8C :: b :: rest) = .malformed 2 := by
  change rowFromSreg p (b :: rest) 1 = _
  simp only [rowFromSreg, takeModRM, takeByte]
  rw [checkRow_ok p false _ _ (by simp [hosz]) hrep]
  obtain h | h := hreg <;> rw [h] <;> rfl

theorem rowToSreg_malformed (hreg : b.extractLsb' 3 3 = 1#3 ∨ b.extractLsb' 3 3 = 6#3 ∨ b.extractLsb' 3 3 = 7#3) :
    decodeUnit p (0x8E :: b :: rest) = .malformed 2 := by
  change rowToSreg p (b :: rest) 1 = _
  simp only [rowToSreg, takeModRM, takeByte]
  rw [checkRow_ok p false _ _ (by simp [hosz]) hrep]
  obtain h | h | h := hreg <;> rw [h] <;> rfl

end Malformed

theorem MalformedRow.of_two {osz : OSize} {op b : Byte} {rest : List Byte} (h : MalformedRow osz (op :: b :: rest) 2) :
    (op ∈ ([0x8D, 0xC4, 0xC5] : List Byte) ∧ b.extractLsb' 6 2 = 3#2) ∨
      (op = 0xFF ∧ b.extractLsb' 6 2 = 3#2) ∨ (op = 0x8C ∧ (b.extractLsb' 3 3 = 6#3 ∨ b.extractLsb' 3 3 = 7#3)) ∨
      (op = 0x8E ∧ (b.extractLsb' 3 3 = 1#3 ∨ b.extractLsb' 3 3 = 6#3 ∨ b.extractLsb' 3 3 = 7#3)) := by
  obtain ⟨_, _, _, ⟨hn, -⟩ | ⟨-, hbs, h⟩⟩ := h
  · exact absurd hn (by decide)
  · cases hbs
    obtain h | ⟨-, ⟨hop, hmod, -⟩ | h⟩ := h
    · exact .inl h
    · exact .inr (.inl ⟨hop, hmod⟩)
    · exact .inr (.inr h)

theorem MalformedRow.of_three {osz : OSize} {x op b : Byte} {rest : List Byte}
    (h : MalformedRow osz (x :: op :: b :: rest) 3) : b.extractLsb' 6 2 = 3#2 := by
  obtain ⟨_, _, _, ⟨-, hbs, -, hmod⟩ | ⟨hn, -⟩⟩ := h
  · cases hbs; exact hmod
  · exact absurd hn (by decide)

/-- Settles O6: the listed rows are malformed by their equations, no other by the answers a row can give. -/
theorem malformedRows : Obligations.MalformedRows := by
  refine ⟨fun seg osz b rest => ?_, fun p bs n h => malformedRow_of_decodeUnit h⟩
  intro p q
  have htwo {r : Prefixes} {op : Byte} (h : decodeUnit r (op :: b :: rest) = .malformed 2) :=
    (malformedRow_of_decodeUnit h).2.of_two
  refine ⟨fun hmod op hop => ?_, fun hmod op hop => ?_, fun hmod hreg => ?_, fun hreg => ?_, fun hreg => ?_,
    fun hmod op hop h => ?_, fun hmod op hop h => ?_, fun hmod h => ?_, fun h6 h7 h => ?_, fun h1 h6 h7 h => ?_⟩
  · simp only [List.mem_cons, List.not_mem_nil, or_false] at hop
    obtain rfl | rfl | rfl := hop <;> exact tailM_malformed (fun _ => rfl) rfl hmod
  · simp only [List.mem_cons, List.not_mem_nil, or_false] at hop
    obtain rfl | rfl | rfl := hop <;> exact tailM_malformed (fun _ => rfl) rfl hmod
  · exact groupFF_malformed rfl rfl hmod hreg
  · exact rowFromSreg_malformed rfl rfl hreg
  · exact rowToSreg_malformed rfl rfl hreg
  · simp only [List.mem_cons, List.not_mem_nil, or_false] at hop
    obtain rfl | rfl | rfl := hop <;> simpa [hmod] using htwo h
  · exact hmod (malformedRow_of_decodeUnit h).2.of_three
  · simpa [hmod] using htwo h
  · simpa [h6, h7] using htwo h
  · simpa [h1, h6, h7] using htwo h

/-! ## The operand size (30_encoding.md R172) -/

/-- Settles O7: at operand size 32 a row that is not admitted has no answer but UnhandledOpcode, and an admitted row does not
have it; ten bytes are enough for every row. -/
theorem operandSizeRows : Obligations.OperandSizeRows := by
  intro seg op m rest hlen hop d
  have hrow : RowAnswer { segOvr := seg, osz := .o32 } op (m :: rest) d := rowAnswer_decodeUnit hop
  clear_value d
  cases hrow with
  | ok i n hosz _ =>
    obtain ⟨hadmits, hi⟩ := hosz rfl
    exact ⟨fun _ => .inl ⟨i, n, rfl, hi⟩, fun h => absurd (h.symm.trans hadmits) nofun⟩
  | unhandled n hadmits =>
    exact ⟨fun h => absurd (h.symm.trans (hadmits rfl rfl)) nofun, fun _ => ⟨n, rfl⟩⟩
  | malformed n hosz _ _ => exact ⟨fun _ => .inr ⟨n, rfl⟩, fun h => absurd (h.symm.trans (hosz rfl)) nofun⟩
  | short hshort _ => rw [List.length_cons] at hshort; omega

/-! ## Repetitions (30_encoding.md R115, 46_string.md R471) -/

/-- Under 0x66 the string rows of 8 bits are not admitted. -/
theorem not_admitsOperandSize_of_mem_stringOpcodes {op : Byte} (hop : op ∈ stringOpcodes)
    (hmoving : op ∉ ([0xA5, 0xAB, 0xAD] : List Byte)) (hcomparing : op ∉ ([0xA7, 0xAF] : List Byte)) (b : Byte) :
    admitsOperandSize op b = false := by
  have hbytes : op ∈ ([0xA4, 0xA6, 0xAA, 0xAC, 0xAE] : List Byte) := by
    simp only [stringOpcodes, List.mem_cons, List.not_mem_nil, or_false] at hop hmoving hcomparing ⊢
    grind
  simp only [List.mem_cons, List.not_mem_nil, or_false] at hbytes
  obtain rfl | rfl | rfl | rfl | rfl := hbytes <;> rfl

/-- A repetition before a row that is no string row, or no string row of this operand size, is refused. -/
theorem decodeUnit_repeat_unhandled {p : Prefixes} {op b1 b2 : Byte} {rest : List Byte} (hop : op ∉ prefixBytes)
    (hrep : p.rep ≠ none) (hstring : op ∈ stringOpcodes → p.osz = .o32 ∧ admitsOperandSize op b1 = false) :
    ∃ n, decodeUnit p (op :: b1 :: b2 :: rest) = .unhandled n := by
  have hrow : RowAnswer p op (b1 :: b2 :: rest) (decodeUnit p (op :: b1 :: b2 :: rest)) := rowAnswer_decodeUnit hop
  generalize decodeUnit p (op :: b1 :: b2 :: rest) = d at hrow ⊢
  cases hrow with
  | ok i n hadmits hread =>
    obtain ⟨hosz, hrefuses⟩ := hstring (hread.resolve_left hrep)
    exact absurd (hrefuses.symm.trans (hadmits hosz).1) nofun
  | unhandled n _ => exact ⟨n, rfl⟩
  | malformed _ _ hnone _ => exact absurd hnone hrep
  | short _ hread =>
    have := hread.resolve_left hrep
    simp only [List.length_cons] at this
    omega

/-- Settles O8: the string rows by evaluation, every other opcode by the answers a row can give. -/
theorem repetitionRows : Obligations.RepetitionRows := by
  intro seg osz op b1 b2 rest z nz moving comparing reads
  refine ⟨fun hop => ?_, fun hop => ?_, fun hmoving hcomparing hop => ?_⟩
  · cases osz <;> simp only [moving, if_true, reduceCtorEq, if_false, List.mem_cons, List.not_mem_nil, or_false] at hop
    case o16 => obtain rfl | rfl | rfl | rfl | rfl | rfl := hop <;> exact ⟨⟨_, _, rfl, rfl, rfl, rfl⟩, rfl⟩
    case o32 => obtain rfl | rfl | rfl := hop <;> exact ⟨⟨_, _, rfl, rfl, rfl, rfl⟩, rfl⟩
  · cases osz <;> simp only [comparing, if_true, reduceCtorEq, if_false, List.mem_cons, List.not_mem_nil, or_false] at hop
    case o16 =>
      obtain rfl | rfl | rfl | rfl := hop <;> exact ⟨⟨_, _, rfl, rfl, rfl, rfl⟩, ⟨_, _, rfl, rfl, rfl, rfl⟩⟩
    case o32 => obtain rfl | rfl := hop <;> exact ⟨⟨_, _, rfl, rfl, rfl, rfl⟩, ⟨_, _, rfl, rfl, rfl, rfl⟩⟩
  · have hstring (h : op ∈ stringOpcodes) : osz = .o32 ∧ admitsOperandSize op b1 = false := by
      cases osz with
      | o16 =>
        simp only [stringOpcodes, moving, comparing, if_true, List.mem_cons, List.not_mem_nil, or_false]
          at h hmoving hcomparing
        grind
      | o32 => exact ⟨rfl, not_admitsOperandSize_of_mem_stringOpcodes h hmoving hcomparing b1⟩
    exact ⟨decodeUnit_repeat_unhandled hop nofun hstring, decodeUnit_repeat_unhandled hop nofun hstring⟩

/-! ## The length limit (30_encoding.md R116) -/

/-- A unit that the bytes cut off asks for the byte after the last. -/
theorem decodeUnit_short {p : Prefixes} {bs : List Byte} {n : Nat} (h : decodeUnit p bs = .short n) : n = bs.length := by
  cases bs with
  | nil => cases h; rfl
  | cons op bs =>
    obtain ⟨i, q, hi, -⟩ | hrow := decodeUnit_cases p op bs
    · rw [hi] at h; cases h
    · rw [h] at hrow
      cases hrow with
      | short => rw [List.length_cons, Nat.add_comm]

theorem decodeUnits_ok_bounds {fuel : Nat} {p : Prefixes} {bs : List Byte} {k : Nat} {i : Instr} {n : Nat}
    (h : decodeUnits fuel p bs k = .ok i n) : k + 1 ≤ n ∧ n ≤ k + bs.length := by
  induction fuel generalizing p bs k with
  | zero => cases h
  | succ fuel ih =>
    rw [decodeUnits] at h
    split at h
    case h_1 j m hunit =>
      obtain ⟨hpos, hle, -⟩ := decodeUnit_bounds p bs j m hunit
      split at h
      · have := ih h
        rw [List.length_drop] at this
        omega
      · cases h; omega
    all_goals cases h

/-- Units are cut off at the end of the bytes, or when the count of units is used up, a byte each. -/
theorem decodeUnits_short {fuel : Nat} {p : Prefixes} {bs : List Byte} {k n : Nat}
    (h : decodeUnits fuel p bs k = .short n) : n = k + bs.length ∨ n = k + fuel := by
  induction fuel generalizing p bs k with
  | zero => cases h; exact .inr rfl
  | succ fuel ih =>
    rw [decodeUnits] at h
    split at h
    case h_1 j m hunit =>
      split at h
      case h_1 q hq =>
        obtain ⟨-, hle, hone⟩ := decodeUnit_bounds p bs j m hunit
        obtain rfl : m = 1 := hone (by simp [hq])
        have := ih h
        rw [List.length_drop] at this
        omega
      case h_2 => cases h
    case h_4 m hunit =>
      cases h
      exact .inl (by rw [decodeUnit_short hunit])
    all_goals cases h

theorem decode_eq_unhandled {bs : List Byte}
    (h : decodeUnits maxLength {} (bs.take maxLength) 0 = .short 15 ∨
      decodeUnits maxLength {} (bs.take maxLength) 0 = .unhandled 15) : decode bs = .unhandled 15 := by
  unfold decode
  obtain h | h := h
  · rw [h]; rfl
  · rw [h]

/-- The first 15 bytes of prefixes and what follows them. -/
theorem decodeUnits_take_prefixBytes (qs : List Prefix) (bs : List Byte) (h : qs.length ≤ maxLength) :
    decodeUnits maxLength {} ((qs.map prefixByte ++ bs).take maxLength) 0 =
      decodeUnits (maxLength - qs.length) (qs.foldl Prefixes.collect {}) (bs.take (maxLength - qs.length)) qs.length := by
  have hunits := decodeUnits_prefixBytes qs {} (bs.take (maxLength - qs.length)) (maxLength - qs.length) 0
  rw [Nat.add_sub_cancel' h, Nat.zero_add] at hunits
  rw [List.take_append, List.length_map, List.take_of_length_le (by rwa [List.length_map]), hunits]

theorem checkRow_cases (p : Prefixes) (v : Bool) (n : Nat) (d : Decoded) :
    checkRow p v n d = .unhandled n ∨ checkRow p v n d = d := by
  unfold checkRow
  split
  · exact .inl rfl
  · split
    · exact .inl rfl
    · exact .inr rfl

/-- These opcodes alone are no instruction: the row's prefixes are refused, or its next byte is asked for. -/
theorem decodeUnit_opcode_alone (p : Prefixes) {op : Byte} (hop : op ∈ ([0x0F, 0x8B, 0xF7, 0xCD, 0xE9] : List Byte)) :
    decodeUnit p [op] = .unhandled 1 ∨ decodeUnit p [op] = .short 1 := by
  simp only [List.mem_cons, List.not_mem_nil, or_false] at hop
  obtain rfl | rfl | rfl | rfl | rfl := hop
  · exact .inr rfl
  · exact .inr rfl
  · exact .inr rfl
  · exact checkRow_cases p false 1 _
  · exact checkRow_cases p false 1 _

theorem decode_ok_iff {bs : List Byte} {i : Instr} {n : Nat} :
    decode bs = .ok i n ↔ decodeUnits maxLength {} (bs.take maxLength) 0 = .ok i n := by
  rw [decode]
  split
  · rename_i h; rw [h]; split <;> simp
  · rfl

/-- Settles O9: when decoding 15 bytes is cut off, all of them are used, so the byte it asks for is the 16th. -/
theorem lengthLimit : Obligations.LengthLimit := by
  intro bs
  have hshort (hlen : 15 ≤ bs.length) (n : Nat) (h : decodeUnits maxLength {} (bs.take maxLength) 0 = .short n) :
      n = 15 := by
    have := decodeUnits_short h
    rw [List.length_take, maxLength] at this
    omega
  refine ⟨fun i n h => ?_, fun hlen => ⟨fun n h => ?_, ?_⟩, fun n hlen h => ?_, fun qs hqs => ?_,
    fun qs hqs op hop => ?_⟩
  · have := decodeUnits_ok_bounds (decode_ok_iff.mp h)
    rw [List.length_take, maxLength] at this
    omega
  · rw [decode] at h
    split at h
    case h_1 m hm =>
      obtain rfl := hshort hlen m hm
      cases h
    case h_2 hne => exact hne n h
  · rw [decode, decode, maxLength, List.take_take, Nat.min_self]
  · obtain rfl := hshort hlen n h
    exact decode_eq_unhandled (.inl h)
  · refine decode_eq_unhandled (.inl ?_)
    rw [decodeUnits_take_prefixBytes qs bs (Nat.le_of_eq hqs), hqs]
    rfl
  · refine decode_eq_unhandled ?_
    rw [decodeUnits_take_prefixBytes qs (op :: bs) (Nat.le_trans (Nat.le_of_eq hqs) (by decide)), hqs]
    change decodeUnits 1 _ [op] 14 = _ ∨ decodeUnits 1 _ [op] 14 = _
    unfold decodeUnits
    obtain h | h := decodeUnit_opcode_alone (qs.foldl Prefixes.collect {}) hop
    · rw [h]; exact .inr rfl
    · rw [h]; exact .inl rfl

/-! ## Effective addresses (30_encoding.md R122, R124, R125) -/

theorem memSeg_none (f : MemForm) (p : Params) :
    memSeg ⟨none, f⟩ p = if p.bpDefaultSeg = .ss ∧ formUsesBp f = true then .ss else .ds := by
  simp only [memSeg, Option.getD_none, defaultSeg]
  cases p.bpDefaultSeg <;> simp

theorem baseUsesBp_iff (b : EABase) : baseUsesBp b = true ↔ b = .bpSi ∨ b = .bpDi ∨ b = .bp := by
  cases b <;> decide

/-- Settles O10: the rows of R122 by evaluation, the default segment by whether the base is BP. -/
theorem effectiveAddress : Obligations.EffectiveAddress := by
  intro s o d8 d16 bx bp si di ea rows
  refine ⟨fun r hr => ?_, rfl, fun _ _ => rfl, ?_, fun b f hf => ?_⟩
  · simp only [rows, List.mem_cons, List.not_mem_nil, or_false] at hr
    obtain rfl | rfl | rfl | rfl | rfl | rfl | rfl | rfl := hr <;> exact ⟨rfl, rfl, rfl⟩
  · rw [memSeg_none]; simp [formUsesBp]
  · have hbp : formUsesBp f = baseUsesBp b := by
      simp only [List.mem_cons, List.not_mem_nil, or_false] at hf
      obtain rfl | rfl | rfl := hf <;> rfl
    simp only [memSeg_none, hbp, baseUsesBp_iff]

end Sys2Proof
end

section
/-! 40_alu_binary.md: results and flags of the update helpers (R201-R209, R212). The lemmas hold at every bit length from 1 or 2
on; the statements take them at the three widths of `Width`. -/

namespace Sys2Proof.Machine

variable {n : Nat}

/-! ## The result flags (40_alu_binary.md R201) -/

/-- A filtered list has odd length where the exclusive or over the list is 1. -/
theorem odd_length_filter {α : Type} (p : α → Bool) (l : List α) :
    decide ((l.filter p).length % 2 = 1) = l.foldr (fun x odd => p x ^^ odd) false := by
  induction l with
  | nil => rfl
  | cons x l ih =>
    rw [List.foldr_cons, ← ih, List.filter_cons]
    cases p x
    case false => rw [if_neg Bool.false_ne_true, Bool.false_xor]
    case true =>
      rw [if_pos rfl, List.length_cons, Bool.true_xor, ← decide_not, decide_eq_decide]
      omega

theorem evenParity_iff (r : BitVec n) :
    evenParity (r.setWidth 8) = true ↔ ((List.range 8).filter fun j => r.getLsbD j).length % 2 = 0 := by
  have hodd : evenParity (r.setWidth 8) = !decide (((List.range 8).filter fun j => r.getLsbD j).length % 2 = 1) := by
    rw [odd_length_filter, evenParity]
    simp only [BitVec.getLsbD_setWidth, Nat.reduceLT, decide_true, Bool.true_and, Bool.xor_assoc]
    rw [← Bool.xor_false (r.getLsbD 7)]
    rfl
  rw [hodd, ← decide_not, decide_eq_true_iff]
  omega

/-- The flags `g` beside a result `r`: SF, ZF and PF as R201 sets them from it, and the flags that no helper of R202-R209
writes as they were in `f`. -/
def ResultFlags (f : Flags) (r : BitVec n) (g : Flags) : Prop :=
  g.SF = r.getLsbD (n - 1) ∧ (g.ZF = true ↔ r.toNat = 0) ∧
    (g.PF = true ↔ ((List.range 8).filter fun j => r.getLsbD j).length % 2 = 0) ∧
    g.AF = f.AF ∧ g.TF = f.TF ∧ g.IF = f.IF ∧ g.DF = f.DF

theorem resultFlags_szp (f : Flags) (r : BitVec n) (cf of : Bool) :
    ResultFlags f r { f.szp r with CF := cf, OF := of } := by
  refine ⟨r.msb_eq_getLsbD_last, ?_, evenParity_iff r, rfl, rfl, rfl, rfl⟩
  rw [← BitVec.toNat_zero (w := n), BitVec.toNat_inj]
  exact beq_iff_eq

theorem updateADD_resultFlags (a b : BitVec n) (c : Bool) (f : Flags) :
    ResultFlags f (updateADD a b c f).1 (updateADD a b c f).2 :=
  resultFlags_szp ..

theorem updateSUB_resultFlags (a b : BitVec n) (c : Bool) (f : Flags) :
    ResultFlags f (updateSUB a b c f).1 (updateSUB a b c f).2 :=
  resultFlags_szp ..

theorem updateAND_resultFlags (p : AndFlagPolicy) (a b : BitVec n) (f : Flags) :
    ResultFlags f (updateAND p a b f).1 (updateAND p a b f).2 := by
  cases p <;> exact resultFlags_szp ..

theorem updateOR_resultFlags (a b : BitVec n) (f : Flags) : ResultFlags f (updateOR a b f).1 (updateOR a b f).2 :=
  resultFlags_szp ..

theorem updateXOR_resultFlags (a b : BitVec n) (f : Flags) : ResultFlags f (updateXOR a b f).1 (updateXOR a b f).2 :=
  resultFlags_szp ..

theorem updateINC_resultFlags (p : IncDecCf) (a : BitVec n) (f : Flags) :
    ResultFlags f (updateINC p a f).1 (updateINC p a f).2 := by
  cases p <;> exact resultFlags_szp ..

theorem updateDEC_resultFlags (p : IncDecCf) (a : BitVec n) (f : Flags) :
    ResultFlags f (updateDEC p a f).1 (updateDEC p a f).2 := by
  cases p <;> exact resultFlags_szp ..

/-! ## Signed overflow by the signs (40_alu_binary.md R202, R203) -/

theorem two_mul_two_pow_pred (hn : 0 < n) : 2 * 2 ^ (n - 1) = 2 ^ n := by
  rw [Nat.mul_comm, Nat.two_pow_pred_mul_two hn]

theorem two_mul_two_pow_pred_int (hn : 0 < n) : 2 * (2 : Int) ^ (n - 1) = 2 ^ n :=
  mod_cast two_mul_two_pow_pred hn

theorem msb_ofInt (x : Int) : (BitVec.ofInt n x).msb = decide ((2 : Int) ^ (n - 1) ≤ x % 2 ^ n) := by
  have hnonneg : 0 ≤ x % (2 : Int) ^ n := Int.emod_nonneg x (Int.pow_ne_zero (by decide))
  rw [BitVec.msb_eq_decide, BitVec.toNat_ofInt, decide_eq_decide, Int.natCast_pow, Int.cast_ofNat_Int, Int.le_toNat hnonneg,
    Int.natCast_pow, Int.cast_ofNat_Int]

/-- An exact value of n + 1 bits overflows n bits where the top bit of its low n bits is not its sign. -/
theorem signedOverflow_iff_msb_ne (hn : 0 < n) {x : Int} (hlo : -(2 : Int) ^ n ≤ x) (hhi : x < (2 : Int) ^ n) :
    signedOverflow n x = true ↔ (BitVec.ofInt n x).msb ≠ decide (x < 0) := by
  have hpow : 2 * 2 ^ (n - 1) = (2 : Int) ^ n := two_mul_two_pow_pred_int hn
  have hmod : x % 2 ^ n = if x < 0 then x + 2 ^ n else x := by
    split
    · rw [← Int.add_emod_right, Int.emod_eq_of_lt (by omega) (by omega)]
    · exact Int.emod_eq_of_lt (by omega) hhi
  rw [msb_ofInt, hmod, signedOverflow]
  simp only [decide_eq_true_eq, ne_eq, decide_eq_decide]
  split <;> omega

/-- Overflow by the signs of the operands: without `p` they cannot overflow, and with it the exact value has the sign `neg`. -/
theorem signedOverflow_iff_and {x : Int} {p : Prop} {neg : Bool} (hn : 0 < n)
    (hfits : ¬ p → -(2 : Int) ^ (n - 1) ≤ x ∧ x < (2 : Int) ^ (n - 1))
    (hsign : p → -(2 : Int) ^ n ≤ x ∧ x < (2 : Int) ^ n ∧ decide (x < 0) = neg) :
    signedOverflow n x = true ↔ p ∧ (BitVec.ofInt n x).msb ≠ neg := by
  by_cases hp : p
  · obtain ⟨hlo, hhi, rfl⟩ := hsign hp
    rw [signedOverflow_iff_msb_ne hn hlo hhi, and_iff_right hp]
  · have := hfits hp
    simp only [signedOverflow, hp, false_and, iff_false, decide_eq_true_eq]
    omega

/-! ## Addition and subtraction (40_alu_binary.md R202, R203) -/

theorem toNat_updateADD (a b : BitVec n) (c : Bool) (f : Flags) :
    (updateADD a b c f).1.toNat = (a.toNat + b.toNat + c.toNat) % 2 ^ n :=
  BitVec.toNat_ofNat ..

theorem updateADD_fst_eq_ofInt (a b : BitVec n) (c : Bool) (f : Flags) :
    (updateADD a b c f).1 = BitVec.ofInt n (a.toInt + b.toInt + c.toNat) := by
  simp only [updateADD, BitVec.ofNat_add, BitVec.ofInt_add, BitVec.ofInt_natCast, BitVec.ofNat_toNat, BitVec.setWidth_eq,
    BitVec.ofInt_toInt]

theorem updateADD_CF_iff (a b : BitVec n) (c : Bool) (f : Flags) :
    (updateADD a b c f).2.CF = true ↔ 2 ^ n ≤ a.toNat + b.toNat + c.toNat :=
  decide_eq_true_iff

theorem updateADD_OF (a b : BitVec n) (c : Bool) (f : Flags) :
    (updateADD a b c f).2.OF = signedOverflow n (a.toInt + b.toInt + c.toNat) :=
  rfl

theorem updateADD_OF_iff (hn : 0 < n) (a b : BitVec n) (c : Bool) (f : Flags) :
    (updateADD a b c f).2.OF = true ↔ a.msb = b.msb ∧ (updateADD a b c f).1.msb ≠ a.msb := by
  have hpow : 2 * 2 ^ (n - 1) = (2 : Int) ^ n := two_mul_two_pow_pred_int hn
  have ha := And.intro a.le_toInt a.toInt_lt
  have hb := And.intro b.le_toInt b.toInt_lt
  have hc := c.toNat_le
  rw [updateADD_OF, updateADD_fst_eq_ofInt]
  -- Operands of different signs have a sum of n bits; the exact sum of operands of one sign has that sign.
  apply signedOverflow_iff_and hn
  all_goals
    simp only [BitVec.msb_eq_toInt, decide_eq_decide]
    omega

theorem toNat_updateSUB (a b : BitVec n) (c : Bool) (f : Flags) :
    (updateSUB a b c f).1.toNat = (a.toNat + 2 ^ (n + 1) - b.toNat - c.toNat) % 2 ^ n := by
  have hb := b.isLt
  have hc := c.toNat_le
  have hpow := Nat.pow_succ' (n := 2) (m := n)
  have hcast : (a.toNat : Int) - b.toNat - c.toNat + 2 * (2 ^ n : Nat) =
      (a.toNat + 2 ^ (n + 1) - b.toNat - c.toNat : Nat) := by
    omega
  rw [updateSUB, BitVec.toNat_ofInt, ← Int.add_mul_emod_self_right _ 2, hcast, ← Int.natCast_emod, Int.toNat_natCast]

theorem updateSUB_fst_eq_ofInt (a b : BitVec n) (c : Bool) (f : Flags) :
    (updateSUB a b c f).1 = BitVec.ofInt n (a.toInt - b.toInt - c.toNat) := by
  simp only [updateSUB, Int.sub_eq_add_neg, BitVec.ofInt_add, BitVec.ofInt_neg, BitVec.ofInt_natCast, BitVec.ofNat_toNat,
    BitVec.setWidth_eq, BitVec.ofInt_toInt]

theorem updateSUB_CF_iff (a b : BitVec n) (c : Bool) (f : Flags) :
    (updateSUB a b c f).2.CF = true ↔ a.toNat < b.toNat + c.toNat :=
  decide_eq_true_iff

theorem updateSUB_OF (a b : BitVec n) (c : Bool) (f : Flags) :
    (updateSUB a b c f).2.OF = signedOverflow n (a.toInt - b.toInt - c.toNat) :=
  rfl

theorem updateSUB_OF_iff (hn : 0 < n) (a b : BitVec n) (c : Bool) (f : Flags) :
    (updateSUB a b c f).2.OF = true ↔ a.msb ≠ b.msb ∧ (updateSUB a b c f).1.msb ≠ a.msb := by
  have hpow : 2 * 2 ^ (n - 1) = (2 : Int) ^ n := two_mul_two_pow_pred_int hn
  have ha := And.intro a.le_toInt a.toInt_lt
  have hb := And.intro b.le_toInt b.toInt_lt
  have hc := c.toNat_le
  rw [updateSUB_OF, updateSUB_fst_eq_ofInt]
  -- Operands of one sign have a difference of n bits; else the exact difference has the sign of the first.
  apply signedOverflow_iff_and hn
  all_goals
    simp only [BitVec.msb_eq_toInt, ne_eq, decide_eq_decide]
    omega

theorem one_lt_bits (w : Width) : 1 < w.bits := by
  cases w <;> decide

/-- Settles O23: overflow by the signs from the exact value, whose sign the operands' signs give where it can overflow. -/
theorem addAndSubtractHelpers : Obligations.AddAndSubtractHelpers := by
  intro w a b c f n add sub even
  have hn : 0 < w.bits := Nat.zero_lt_of_lt (one_lt_bits w)
  refine ⟨toNat_updateADD a b c f, updateADD_CF_iff a b c f, updateADD_OF_iff hn a b c f, toNat_updateSUB a b c f,
    updateSUB_CF_iff a b c f, updateSUB_OF_iff hn a b c f, ?_, rfl⟩
  rw [List.forall_mem_cons, List.forall_mem_singleton]
  exact ⟨updateADD_resultFlags a b c f, updateSUB_resultFlags a b c f⟩

/-! ## AND, OR and XOR (40_alu_binary.md R204-R206, R212) -/

theorem updateAND_fst (p : AndFlagPolicy) (a b : BitVec n) (f : Flags) : (updateAND p a b f).1 = a &&& b := by
  cases p <;> rfl

theorem updateAND_source_CF_iff (a b : BitVec n) (f : Flags) :
    (updateAND .source a b f).2.CF = true ↔ (a &&& b).toNat = a.toNat + b.toNat :=
  decide_eq_true_iff

theorem updateAND_source_OF_iff (a b : BitVec n) (f : Flags) :
    (updateAND .source a b f).2.OF = true ↔ a.toNat + b.toNat < (a &&& b).toNat :=
  decide_eq_true_iff

theorem toNat_and_le (a b : BitVec n) : (a &&& b).toNat ≤ a.toNat ∧ (a &&& b).toNat ≤ b.toNat := by
  rw [BitVec.toNat_and]
  exact ⟨Nat.and_le_left, Nat.and_le_right⟩

/-- R212: an AND that is at most each operand is their sum only where both are 0. -/
theorem toNat_and_eq_add_iff (a b : BitVec n) : (a &&& b).toNat = a.toNat + b.toNat ↔ a = 0#n ∧ b = 0#n := by
  obtain ⟨hle, hle'⟩ := toNat_and_le a b
  rw [← BitVec.toNat_inj, ← BitVec.toNat_inj, BitVec.toNat_zero]
  omega

theorem updateAND_source_OF (a b : BitVec n) (f : Flags) : (updateAND .source a b f).2.OF = false := by
  obtain ⟨hle, -⟩ := toNat_and_le a b
  rw [← Bool.not_eq_true, updateAND_source_OF_iff]
  omega

/-- Settles O24: under SOURCE, the AND against the sum of the operands, which it meets at 0 and 0 and never exceeds. -/
theorem logicHelpers : Obligations.LogicHelpers := by
  intro w a b f n and even
  refine ⟨fun p => updateAND_fst p a b f, rfl, rfl, updateAND_source_CF_iff a b f, updateAND_source_OF_iff a b f,
    (updateAND_source_CF_iff a b f).trans (toNat_and_eq_add_iff a b), updateAND_source_OF a b f, ?_, ?_⟩
  · rw [List.forall_mem_cons, List.forall_mem_cons, List.forall_mem_singleton]
    exact ⟨⟨rfl, rfl⟩, ⟨rfl, rfl⟩, rfl, rfl⟩
  · rw [List.forall_mem_cons, List.forall_mem_cons, List.forall_mem_cons, List.forall_mem_singleton]
    exact ⟨updateAND_resultFlags .source a b f, updateAND_resultFlags .x86 a b f, updateOR_resultFlags a b f,
      updateXOR_resultFlags a b f⟩

/-! ## Increment and decrement (40_alu_binary.md R207, R208) -/

theorem toNat_updateINC (p : IncDecCf) (a : BitVec n) (f : Flags) :
    (updateINC p a f).1.toNat = (a.toNat + 1) % 2 ^ n := by
  cases p <;> exact BitVec.toNat_ofNat ..

theorem updateINC_OF_iff (p : IncDecCf) (a : BitVec n) (f : Flags) :
    (updateINC p a f).2.OF = true ↔ a.toNat = 2 ^ (n - 1) - 1 := by
  cases p <;> exact decide_eq_true_iff

theorem toNat_updateDEC (p : IncDecCf) (a : BitVec n) (f : Flags) :
    (updateDEC p a f).1.toNat = (a.toNat + 2 ^ n - 1) % 2 ^ n := by
  have hcast : (a.toNat : Int) - 1 + (2 ^ n : Nat) = (a.toNat + 2 ^ n - 1 : Nat) := by
    have := Nat.two_pow_pos n
    omega
  have hresult : (updateDEC p a f).1 = BitVec.ofInt n ((a.toNat : Int) - 1) := by cases p <;> rfl
  rw [hresult, BitVec.toNat_ofInt, ← Int.add_emod_right, hcast, ← Int.natCast_emod, Int.toNat_natCast]

theorem updateDEC_OF_iff (p : IncDecCf) (a : BitVec n) (f : Flags) :
    (updateDEC p a f).2.OF = true ↔ a.toNat = 2 ^ (n - 1) := by
  cases p <;> exact decide_eq_true_iff

theorem signedOverflow_eq_decide (x : Int) :
    signedOverflow n x = decide (x < -(2 ^ (n - 1) : Nat) ∨ (2 ^ (n - 1) : Nat) ≤ x) := by
  rw [signedOverflow, decide_eq_decide]
  rw [Int.natCast_pow, Int.cast_ofNat_Int]
  omega

theorem signedOverflow_toInt_add_one (hn : 0 < n) (a : BitVec n) :
    signedOverflow n (a.toInt + 1) = decide (a.toNat = 2 ^ (n - 1) - 1) := by
  have hpow : 2 * 2 ^ (n - 1) = 2 ^ n := two_mul_two_pow_pred hn
  have hlt := a.isLt
  rw [signedOverflow_eq_decide, BitVec.toInt_eq_toNat_cond, decide_eq_decide]
  split <;> omega

theorem signedOverflow_toInt_sub_one (hn : 0 < n) (a : BitVec n) :
    signedOverflow n (a.toInt - 1) = decide (a.toNat = 2 ^ (n - 1)) := by
  have hpow : 2 * 2 ^ (n - 1) = 2 ^ n := two_mul_two_pow_pred hn
  have hlt := a.isLt
  rw [signedOverflow_eq_decide, BitVec.toInt_eq_toNat_cond, decide_eq_decide]
  split <;> omega

/-- From 2 bits on: at 1 bit, `1#1` is the sign bit and its signed value is -1. -/
theorem updateINC_written (hn : 1 < n) (a : BitVec n) (f : Flags) :
    updateINC .written a f = updateADD a 1#n false f := by
  have hpos : 0 < n := Nat.zero_lt_of_lt hn
  have hcf : decide (a.toNat = 2 ^ n - 1) = decide (2 ^ n ≤ a.toNat + 1) := by
    have := a.isLt
    rw [decide_eq_decide]
    omega
  simp only [updateINC, updateADD, BitVec.toNat_one hpos, BitVec.toInt_one hn, Bool.toNat_false, Int.natCast_zero,
    Nat.add_zero, Int.add_zero, signedOverflow_toInt_add_one hpos, hcf]
  rfl

/-- From 2 bits on, as for `updateINC_written`. -/
theorem updateDEC_written (hn : 1 < n) (a : BitVec n) (f : Flags) :
    updateDEC .written a f = updateSUB a 1#n false f := by
  have hpos : 0 < n := Nat.zero_lt_of_lt hn
  simp only [updateDEC, updateSUB, BitVec.toNat_one hpos, BitVec.toInt_one hn, Bool.toNat_false, Int.natCast_zero,
    Int.natCast_one, Nat.add_zero, Int.sub_zero, signedOverflow_toInt_sub_one hpos, Nat.lt_one_iff]
  rfl

/-- Settles O25: under WRITTEN the helpers are ADD and SUB of 1, whose overflow is at the one value next to the bound. -/
theorem incrementHelpers : Obligations.IncrementHelpers := by
  intro w a f n inc dec even
  refine ⟨fun p => ⟨toNat_updateINC p a f, updateINC_OF_iff p a f, toNat_updateDEC p a f, updateDEC_OF_iff p a f⟩,
    decide_eq_true_iff, rfl, decide_eq_true_iff, rfl, updateINC_written (one_lt_bits w) a f,
    updateDEC_written (one_lt_bits w) a f, ?_⟩
  rw [List.forall_mem_cons, List.forall_mem_cons, List.forall_mem_cons, List.forall_mem_singleton]
  exact ⟨updateINC_resultFlags .written a f, updateINC_resultFlags .preserved a f, updateDEC_resultFlags .written a f,
    updateDEC_resultFlags .preserved a f⟩

end Sys2Proof.Machine
end

section
/-! 42_muldiv.md: sign extension of the accumulator (R304, R305). -/

namespace Sys2Proof.Machine

/-- The encodings of R304 and R305: opcodes 98 and 99, of operand size 32 under the prefix 66. -/
theorem decode_signExtension :
    decode [0x98] = .ok .cbw 1 ∧ decode [0x66, 0x98] = .ok .cwde 2 ∧
      decode [0x99] = .ok .cwd 1 ∧ decode [0x66, 0x99] = .ok .cdq 2 := by
  decide

theorem exec_cbw (s : State) : exec .cbw s = done (writeReg .w16 .ax ((readReg .w8 .ax s).signExtend 16) s) := rfl

theorem exec_cwde (s : State) : exec .cwde s = done (writeReg .w32 .ax ((readReg .w16 .ax s).signExtend 32) s) := rfl

/-- The model fills DX by the sign of AX; R305 names the bit that holds it. -/
theorem exec_cwd (s : State) :
    exec .cwd s = done (writeReg .w16 .dx (if (readReg .w16 .ax s).getLsbD 15 then 0xFFFF#16 else 0#16) s) := by
  have hsign : (readReg .w16 .ax s).msb = (readReg .w16 .ax s).getLsbD 15 := BitVec.msb_eq_getLsbD_last _
  rw [← hsign]
  rfl

/-- As for `exec_cwd`, with EDX and bit 31 of EAX. -/
theorem exec_cdq (s : State) :
    exec .cdq s = done (writeReg .w32 .dx (if (readReg .w32 .ax s).getLsbD 31 then 0xFFFFFFFF#32 else 0#32) s) := by
  have hsign : (readReg .w32 .ax s).msb = (readReg .w32 .ax s).getLsbD 31 := BitVec.msb_eq_getLsbD_last _
  rw [← hsign]
  rfl

/-- Settles O31: the bytes by evaluation, and each meaning completes with its one register written. -/
theorem signExtension : Obligations.SignExtension := by
  intro s
  obtain ⟨hcbw, hcwde, hcwd, hcdq⟩ := decode_signExtension
  exact ⟨hcbw, hcwde, hcwd, hcdq, exec_cbw s, exec_cwde s, exec_cwd s, exec_cdq s⟩

end Sys2Proof.Machine
end

section
/-! 44_flag_ops.md: the instructions that write one flag (R370-R376). -/

namespace Sys2Proof.Machine

/-- The encodings of R370-R376. -/
theorem decode_flagInstructions :
    decode [0xF8] = .ok .clc 1 ∧ decode [0xF9] = .ok .stc 1 ∧ decode [0xF5] = .ok .cmc 1 ∧
      decode [0xFC] = .ok .cld 1 ∧ decode [0xFD] = .ok .std 1 ∧ decode [0xFA] = .ok .cli 1 ∧
      decode [0xFB] = .ok .sti 1 := by
  decide

theorem exec_clc (s : State) : exec .clc s = done (s.setFlags { s.flags with CF := false }) := rfl

theorem exec_stc (s : State) : exec .stc s = done (s.setFlags { s.flags with CF := true }) := rfl

theorem exec_cmc (s : State) : exec .cmc s = done (s.setFlags { s.flags with CF := !s.flags.CF }) := rfl

theorem exec_cld (s : State) : exec .cld s = done (s.setFlags { s.flags with DF := false }) := rfl

theorem exec_std (s : State) : exec .std s = done (s.setFlags { s.flags with DF := true }) := rfl

theorem exec_cli (s : State) : exec .cli s = done (s.setFlags { s.flags with IF := false }) := rfl

theorem exec_sti (s : State) : exec .sti s = done (s.setFlags { s.flags with IF := true }) := rfl

/-- Settles O35: the bytes by evaluation, and each meaning completes with its one flag written. -/
theorem flagInstructions : Obligations.FlagInstructions := by
  intro s
  obtain ⟨hclc, hstc, hcmc, hcld, hstd, hcli, hsti⟩ := decode_flagInstructions
  exact ⟨hclc, exec_clc s, hstc, exec_stc s, hcmc, exec_cmc s, hcld, exec_cld s, hstd, exec_std s, hcli, exec_cli s,
    hsti, exec_sti s⟩

end Sys2Proof.Machine
end

section
/-! 30_encoding.md: the decoder read backwards (R110-R126, R140-R165, R187). What it accepts is well formed and is the encoder's
bytes; what the encoder writes it accepts, under prefixes in the encoder's order. -/

namespace Sys2Proof

open Machine

/-! ## The bytes a unit was decoded from -/

/-- A unit of which the bytes `pre` are read and at most `k` of `bs` follow, `n` bytes behind: an instruction is well formed and
its bytes are those read; a decode fault is decided inside the bytes. -/
def Reencodes (k : Nat) (pre bs : List Byte) (n : Nat) : Decoded → Prop
  | .ok i m => i.wf = true ∧ ∃ xs, xs <+: bs ∧ xs.length ≤ k ∧ m = n + xs.length ∧ encodeUnit i = pre ++ xs
  | .unhandled m | .malformed m => m ≤ n + bs.length
  | .short _ => True

section Reencodes

variable {k : Nat} {pre bs : List Byte} {n : Nat} {p : Prefixes} {v : Bool} {mod : BitVec 2} {reg rm : BitVec 3}

theorem reencodes_ok {i : Instr} (hwf : i.wf = true) (henc : encodeUnit i = pre) : Reencodes k pre bs n (.ok i n) :=
  ⟨hwf, [], List.nil_prefix, Nat.zero_le k, rfl, by rw [henc, List.append_nil]⟩

theorem reencodes_unhandled : Reencodes k pre bs n (.unhandled n) := Nat.le_add_right n _

theorem reencodes_malformed : Reencodes k pre bs n (.malformed n) := Nat.le_add_right n _

theorem Reencodes.mono {j : Nat} {d : Decoded} (h : Reencodes j pre bs n d) (hjk : j ≤ k) : Reencodes k pre bs n d := by
  cases d with
  | ok i m =>
    obtain ⟨hwf, xs, hpre, hlen, hm, henc⟩ := h
    exact ⟨hwf, xs, hpre, Nat.le_trans hlen hjk, hm, henc⟩
  | _ => exact h

/-- The bytes `ys` read, then the rest. -/
theorem reencodes_append {ys : List Byte} {d : Decoded} (h : Reencodes k (pre ++ ys) bs (n + ys.length) d) :
    Reencodes (k + ys.length) pre (ys ++ bs) n d := by
  cases d with
  | ok i m =>
    obtain ⟨hwf, xs, hpre, hlen, rfl, henc⟩ := h
    refine ⟨hwf, ys ++ xs, (List.prefix_append_right_inj ys).mpr hpre, ?_, ?_, by rw [henc, List.append_assoc]⟩
    all_goals rw [List.length_append]; omega
  | unhandled m =>
    have hm : m ≤ n + ys.length + bs.length := h
    show m ≤ n + (ys ++ bs).length
    rwa [List.length_append, ← Nat.add_assoc]
  | malformed m =>
    have hm : m ≤ n + ys.length + bs.length := h
    show m ≤ n + (ys ++ bs).length
    rwa [List.length_append, ← Nat.add_assoc]
  | short m => trivial

/-! ### Fields -/

theorem reencodes_takeByte {f : Byte → List Byte → Nat → Decoded}
    (h : ∀ b bs, Reencodes k (pre ++ [b]) bs (n + 1) (f b bs (n + 1))) :
    Reencodes (k + 1) pre bs n (takeByte bs n f) := by
  cases bs with
  | nil => trivial
  | cons b bs => exact reencodes_append (ys := [b]) (h b bs)

theorem wordBytes_append (hi lo : Byte) : wordBytes (hi ++ lo) = [lo, hi] := by
  have hlo : (hi ++ lo).extractLsb' 0 8 = lo := by
    rw [BitVec.extractLsb'_append_eq_of_add_le (by omega), BitVec.extractLsb'_eq_self]
  have hhi : (hi ++ lo).extractLsb' 8 8 = hi := by
    rw [BitVec.extractLsb'_append_eq_of_le (by omega), BitVec.extractLsb'_eq_self]
  rw [wordBytes, hlo, hhi]

theorem reencodes_takeWord {f : Word → List Byte → Nat → Decoded}
    (h : ∀ w bs, Reencodes k (pre ++ wordBytes w) bs (n + 2) (f w bs (n + 2))) :
    Reencodes (k + 2) pre bs n (takeWord bs n f) :=
  reencodes_takeByte fun lo bs => reencodes_takeByte fun hi bs => by
    have := h (hi ++ lo) bs
    rwa [wordBytes_append, List.append_cons] at this

theorem ivBytes_o16_setWidth (w : Word) : ivBytes .o16 (w.setWidth 32) = wordBytes w := by
  have hw : (w.setWidth 32).extractLsb' 0 16 = w := by
    ext j hj
    simp [show j < 32 by omega, hj]
  rw [ivBytes, hw]

theorem immFits_setWidth (w : Word) : immFits .o16 (w.setWidth 32) = true := by
  have hw : (w.setWidth 32).extractLsb' 16 16 = 0#16 := by
    ext j hj
    simp
  rw [immFits, hw]
  rfl

theorem dwordBytes_append (hi lo : Word) : dwordBytes (hi ++ lo) = wordBytes lo ++ wordBytes hi := by
  simp (disch := omega) only [dwordBytes, wordBytes, BitVec.extractLsb'_append_eq_of_add_le,
    BitVec.extractLsb'_append_eq_of_le, List.cons_append, List.nil_append, Nat.reduceSub]

theorem reencodes_takeIv {o : OSize} {f : Dword → List Byte → Nat → Decoded}
    (h : ∀ imm bs n, immFits o imm = true → Reencodes k (pre ++ ivBytes o imm) bs n (f imm bs n)) :
    Reencodes (k + 4) pre bs n (takeIv o bs n f) := by
  cases o with
  | o16 =>
    refine (reencodes_takeWord (k := k) (f := fun w bs n => f (w.setWidth 32) bs n) fun w bs => ?_).mono (by omega)
    rw [← ivBytes_o16_setWidth]
    exact h _ bs _ (immFits_setWidth w)
  | o32 =>
    refine reencodes_takeWord (k := k + 2) (f := fun lo bs n => takeWord bs n fun hi bs n => f (hi ++ lo) bs n)
      fun lo bs => reencodes_takeWord fun hi bs => ?_
    rw [List.append_assoc, ← dwordBytes_append]
    exact h _ bs _ rfl

theorem EABase.code_ofCode : ∀ c : BitVec 3, (EABase.ofCode c).code = c := by decide

theorem Reg.code_ofCode : ∀ c : BitVec 3, (Reg.ofCode c).code = c := by decide

theorem SReg.code_of_ofCode : ∀ (c : BitVec 3) (r : SReg), SReg.ofCode c = some r → r.code = c := by
  intro c r
  cases r <;> revert c <;> decide

theorem EABase.ofCode_ne_bp : ∀ c : BitVec 3, c ≠ 6#3 → EABase.ofCode c ≠ .bp := by decide

theorem reencodes_takeForm {f : MemForm → List Byte → Nat → Decoded} (hmod : mod ≠ 3#2)
    (h : ∀ m bs n, m.wf = true → m.mod = mod → m.rm = rm → Reencodes k (pre ++ m.disp) bs n (f m bs n)) :
    Reencodes (k + 2) pre bs n (takeForm mod rm bs n f) := by
  have hcases : ∀ mod : BitVec 2, mod ≠ 3#2 → mod = 0#2 ∨ mod = 1#2 ∨ mod = 2#2 := by decide
  obtain rfl | rfl | rfl := hcases mod hmod
  · show Reencodes (k + 2) pre bs n
      (if rm = 6#3 then takeWord bs n fun d bs n => f (.direct d) bs n else f (.base (EABase.ofCode rm)) bs n)
    split
    case isTrue hrm => exact reencodes_takeWord fun d bs => h (.direct d) bs _ rfl rfl hrm.symm
    case isFalse hrm =>
      have := h (.base (EABase.ofCode rm)) bs n (by simpa [MemForm.wf] using EABase.ofCode_ne_bp rm hrm) rfl
        (EABase.code_ofCode rm)
      rw [MemForm.disp, List.append_nil] at this
      exact this.mono (by omega)
  · exact (reencodes_takeByte (k := k) fun d bs => h (.disp8 _ d) bs _ rfl rfl (EABase.code_ofCode rm)).mono (by omega)
  · exact reencodes_takeWord fun d bs => h (.disp16 _ d) bs _ rfl rfl (EABase.code_ofCode rm)

/-- ModR/M and what follows it name an operand whose bytes they are. -/
theorem reencodes_takeE {f : RM → List Byte → Nat → Decoded}
    (h : ∀ e bs n, e.wf = true → Reencodes k (pre ++ eBytes reg e) bs n (f e bs n)) :
    Reencodes (k + 2) (pre ++ [modrmByte mod reg rm]) bs n (takeE p mod rm bs n f) := by
  unfold takeE
  split
  case isTrue hmod =>
    have := h (.reg (Reg.ofCode rm)) bs n rfl
    rw [eBytes, Reg.code_ofCode] at this
    rw [hmod]
    exact this.mono (by omega)
  case isFalse hmod =>
    refine reencodes_takeForm hmod fun m bs n hwf hmod hrm => ?_
    rw [List.append_assoc, List.singleton_append, ← hmod, ← hrm, ← formBytes_eq]
    exact h (.mem ⟨p.segOvr, m⟩) bs n hwf

theorem modrmByte_extract : ∀ b : Byte, modrmByte (b.extractLsb' 6 2) (b.extractLsb' 3 3) (b.extractLsb' 0 3) = b := by
  decide

theorem reencodes_takeModRM {f : BitVec 2 → BitVec 3 → BitVec 3 → List Byte → Nat → Decoded}
    (h : ∀ mod reg rm bs, Reencodes k (pre ++ [modrmByte mod reg rm]) bs (n + 1) (f mod reg rm bs (n + 1))) :
    Reencodes (k + 1) pre bs n (takeModRM bs n f) :=
  reencodes_takeByte fun b bs => by
    have := h (b.extractLsb' 6 2) (b.extractLsb' 3 3) (b.extractLsb' 0 3) bs
    rwa [modrmByte_extract] at this

/-! ### Row shapes -/

theorem reencodes_checkRow {d : Decoded} (h : Reencodes k pre bs n d) : Reencodes k pre bs n (checkRow p v n d) := by
  unfold checkRow
  split
  · exact reencodes_unhandled
  · split
    · exact reencodes_unhandled
    · exact h

theorem reencodes_rowNone {i : Instr} (hwf : i.wf = true) (henc : encodeUnit i = pre) :
    Reencodes k pre bs n (rowNone p v n i) := reencodes_checkRow (reencodes_ok hwf henc)

theorem reencodes_rowIb {mk : Byte → Instr} (hwf : ∀ b, (mk b).wf = true) (henc : ∀ b, encodeUnit (mk b) = pre ++ [b]) :
    Reencodes (k + 1) pre bs n (rowIb p v bs n mk) :=
  reencodes_checkRow (reencodes_takeByte fun b _ => reencodes_ok (hwf b) (henc b))

theorem reencodes_rowIw {mk : Word → Instr} (hwf : ∀ w, (mk w).wf = true)
    (henc : ∀ w, encodeUnit (mk w) = pre ++ wordBytes w) : Reencodes (k + 2) pre bs n (rowIw p v bs n mk) :=
  reencodes_checkRow (reencodes_takeWord fun w _ => reencodes_ok (hwf w) (henc w))

theorem reencodes_rowIv {mk : Dword → Instr} (hwf : ∀ imm, immFits p.osz imm = true → (mk imm).wf = true)
    (henc : ∀ imm, encodeUnit (mk imm) = pre ++ ivBytes p.osz imm) : Reencodes (k + 4) pre bs n (rowIv p bs n mk) :=
  reencodes_checkRow (reencodes_takeIv fun imm _ _ hfits => reencodes_ok (hwf imm hfits) (henc imm))

theorem reencodes_rowFar {mk : Word → Word → Instr} (hwf : ∀ sel off, (mk sel off).wf = true)
    (henc : ∀ sel off, encodeUnit (mk sel off) = pre ++ wordBytes off ++ wordBytes sel) :
    Reencodes (k + 2 + 2) pre bs n (rowFar p bs n mk) :=
  reencodes_checkRow (reencodes_takeWord fun off _ => reencodes_takeWord fun sel _ => reencodes_ok (hwf sel off) (henc sel off))

theorem reencodes_tailE {mk : RM → Instr} (hwf : ∀ e, e.wf = true → (mk e).wf = true)
    (henc : ∀ e, encodeUnit (mk e) = pre ++ eBytes reg e) :
    Reencodes (k + 2) (pre ++ [modrmByte mod reg rm]) bs n (tailE p v mod rm bs n mk) :=
  reencodes_checkRow (reencodes_takeE fun e _ _ he => reencodes_ok (hwf e he) (henc e))

theorem reencodes_tailEIb {mk : RM → Byte → Instr} (hwf : ∀ e b, e.wf = true → (mk e b).wf = true)
    (henc : ∀ e b, encodeUnit (mk e b) = pre ++ (eBytes reg e ++ [b])) :
    Reencodes (k + 1 + 2) (pre ++ [modrmByte mod reg rm]) bs n (tailEIb p v mod rm bs n mk) :=
  reencodes_checkRow (reencodes_takeE fun e _ _ he => reencodes_takeByte fun b _ =>
    reencodes_ok (hwf e b he) ((henc e b).trans (List.append_assoc ..).symm))

theorem reencodes_tailEIv {mk : RM → Dword → Instr}
    (hwf : ∀ e imm, e.wf = true → immFits p.osz imm = true → (mk e imm).wf = true)
    (henc : ∀ e imm, encodeUnit (mk e imm) = pre ++ (eBytes reg e ++ ivBytes p.osz imm)) :
    Reencodes (k + 4 + 2) (pre ++ [modrmByte mod reg rm]) bs n (tailEIv p mod rm bs n mk) :=
  reencodes_checkRow (reencodes_takeE fun e _ _ he => reencodes_takeIv fun imm _ _ hfits =>
    reencodes_ok (hwf e imm he hfits) ((henc e imm).trans (List.append_assoc ..).symm))

theorem reencodes_tailM {mk : MemRef → Instr} (hwf : ∀ m, m.wf = true → (mk m).wf = true)
    (henc : ∀ m, encodeUnit (mk m) = pre ++ formBytes reg m.form) :
    Reencodes (k + 2) (pre ++ [modrmByte mod reg rm]) bs n (tailM p v mod rm bs n mk) := by
  refine reencodes_checkRow ?_
  split
  case isTrue => exact reencodes_malformed
  case isFalse hmod =>
    refine reencodes_takeForm hmod fun m bs n hm hmod hrm => ?_
    rw [List.append_assoc, List.singleton_append, ← hmod, ← hrm, ← formBytes_eq]
    exact reencodes_ok (hwf ⟨p.segOvr, m⟩ hm) (henc ⟨p.segOvr, m⟩)

theorem reencodes_rowEG {mk : RM → Reg → Instr} (hwf : ∀ e g, e.wf = true → (mk e g).wf = true)
    (henc : ∀ e g, encodeUnit (mk e g) = pre ++ eBytes g.code e) : Reencodes (k + 2 + 1) pre bs n (rowEG p v bs n mk) :=
  reencodes_takeModRM fun _ reg _ _ => reencodes_tailE (fun e => hwf e _) fun e => by
    rw [henc, Reg.code_ofCode]

theorem reencodes_rowGM {mk : Reg → MemRef → Instr} (hwf : ∀ g m, m.wf = true → (mk g m).wf = true)
    (henc : ∀ g m, encodeUnit (mk g m) = pre ++ formBytes g.code m.form) :
    Reencodes (k + 2 + 1) pre bs n (rowGM p bs n mk) :=
  reencodes_takeModRM fun _ reg _ _ => reencodes_tailM (fun m => hwf _ m) fun m => by
    rw [henc, Reg.code_ofCode]

theorem reencodes_rowFromSreg : Reencodes (k + 2 + 1) [0x8C] bs n (rowFromSreg p bs n) := by
  refine reencodes_takeModRM fun mod reg rm bs => reencodes_checkRow ?_
  split
  case h_1 => exact reencodes_malformed
  case h_2 r hr =>
    rw [← SReg.code_of_ofCode reg r hr]
    exact reencodes_takeE fun e _ _ he => reencodes_ok he rfl

theorem reencodes_rowToSreg : Reencodes (k + 2 + 1) [0x8E] bs n (rowToSreg p bs n) := by
  refine reencodes_takeModRM fun mod reg rm bs => reencodes_checkRow ?_
  split
  case h_1 | h_2 => exact reencodes_malformed
  case h_3 r hcs hr =>
    rw [← SReg.code_of_ofCode reg r hr]
    refine reencodes_takeE fun e _ _ he => reencodes_ok ?_ rfl
    rw [Instr.wf, he, Bool.true_and]
    exact bne_iff_ne.mpr fun hr => hcs hr

theorem reencodes_rowStringB {plain f3 : Instr} {f2 : Option Instr} (hwf : plain.wf = true) (henc : encodeUnit plain = pre)
    (hwf3 : f3.wf = true) (henc3 : encodeUnit f3 = pre) (hf2 : ∀ i, f2 = some i → i.wf = true ∧ encodeUnit i = pre) :
    Reencodes k pre bs n (rowStringB p n plain f3 f2) := by
  unfold rowStringB
  split
  · exact reencodes_unhandled
  · split
    · exact reencodes_ok hwf henc
    · exact reencodes_ok hwf3 henc3
    · cases f2 with
      | none => exact reencodes_unhandled
      | some i => exact reencodes_ok (hf2 i rfl).1 (hf2 i rfl).2

theorem reencodes_rowStringV {wPlain wF3 dPlain dF3 : Instr} {wF2 dF2 : Option Instr}
    (h16 : ∀ {q : Prefixes}, Reencodes k pre bs n (rowStringB q n wPlain wF3 wF2))
    (h32 : ∀ {q : Prefixes}, Reencodes k pre bs n (rowStringB q n dPlain dF3 dF2)) :
    Reencodes k pre bs n (rowStringV p n wPlain wF3 wF2 dPlain dF3 dF2) := by
  unfold rowStringV
  split
  · exact h16
  · exact h32

/-! ### Groups (30_encoding.md R160-R165) -/

/-- The rows of a group, one for each slot of ModR/M. -/
theorem reencodes_group {f : BitVec 2 → BitVec 3 → BitVec 3 → List Byte → Nat → Decoded}
    (h : ∀ mod rm bs (slot : Fin 8), Reencodes k (pre ++ [modrmByte mod (BitVec.ofFin slot) rm]) bs (n + 1)
      (f mod (BitVec.ofFin slot) rm bs (n + 1))) :
    Reencodes (k + 1) pre bs n (takeModRM bs n f) :=
  reencodes_takeModRM fun mod reg rm bs => h mod rm bs reg.toFin

theorem reencodes_group80 : Reencodes 7 [0x80] bs n (group80 p bs n) :=
  reencodes_group fun _ _ _ slot => match slot with
    | 0 | 1 | 2 | 3 | 4 | 5 | 6 | 7 => reencodes_tailEIb (k := 3) (fun _ _ h => h) fun _ _ => rfl

theorem reencodes_group81 : Reencodes 7 [0x81] bs n (group81 p bs n) :=
  reencodes_group fun _ _ _ slot => match slot with
    | 0 | 1 | 2 | 3 | 4 | 5 | 6 | 7 =>
      reencodes_tailEIv (k := 0) (fun _ _ he himm => Bool.and_eq_true_iff.mpr ⟨he, himm⟩) fun _ _ => rfl

theorem reencodes_group83 : Reencodes 7 [0x83] bs n (group83 p bs n) :=
  reencodes_group fun _ _ _ slot => match slot with
    | 0 | 1 | 2 | 3 | 4 | 5 | 6 | 7 => reencodes_tailEIb (k := 3) (fun _ _ h => h) fun _ _ => rfl

theorem reencodes_groupC0 : Reencodes 7 [0xC0] bs n (groupC0 p bs n) :=
  reencodes_group fun _ _ _ slot => match slot with
    | 0 | 1 | 2 | 3 | 4 | 5 | 7 => reencodes_tailEIb (k := 3) (fun _ _ h => h) fun _ _ => rfl
    | 6 => reencodes_unhandled

theorem reencodes_groupC1 : Reencodes 7 [0xC1] bs n (groupC1 p bs n) :=
  reencodes_group fun _ _ _ slot => match slot with
    | 0 | 1 | 2 | 3 | 4 | 5 | 7 => reencodes_tailEIb (k := 3) (fun _ _ h => h) fun _ _ => rfl
    | 6 => reencodes_unhandled

theorem reencodes_groupD0 : Reencodes 7 [0xD0] bs n (groupD0 p bs n) :=
  reencodes_group fun _ _ _ slot => match slot with
    | 0 | 1 | 2 | 3 | 4 | 5 | 7 => reencodes_tailE (k := 4) (fun _ h => h) fun _ => rfl
    | 6 => reencodes_unhandled

theorem reencodes_groupD1 : Reencodes 7 [0xD1] bs n (groupD1 p bs n) :=
  reencodes_group fun _ _ _ slot => match slot with
    | 0 | 1 | 2 | 3 | 4 | 5 | 7 => reencodes_tailE (k := 4) (fun _ h => h) fun _ => rfl
    | 6 => reencodes_unhandled

theorem reencodes_groupD2 : Reencodes 7 [0xD2] bs n (groupD2 p bs n) :=
  reencodes_group fun _ _ _ slot => match slot with
    | 0 | 1 | 2 | 3 | 4 | 5 | 7 => reencodes_tailE (k := 4) (fun _ h => h) fun _ => rfl
    | 6 => reencodes_unhandled

theorem reencodes_groupD3 : Reencodes 7 [0xD3] bs n (groupD3 p bs n) :=
  reencodes_group fun _ _ _ slot => match slot with
    | 0 | 1 | 2 | 3 | 4 | 5 | 7 => reencodes_tailE (k := 4) (fun _ h => h) fun _ => rfl
    | 6 => reencodes_unhandled

theorem reencodes_groupF6 : Reencodes 7 [0xF6] bs n (groupF6 p bs n) :=
  reencodes_group fun _ _ _ slot => match slot with
    | 0 => reencodes_tailEIb (k := 3) (fun _ _ h => h) fun _ _ => rfl
    | 2 | 3 | 4 | 5 | 6 | 7 => reencodes_tailE (k := 4) (fun _ h => h) fun _ => rfl
    | 1 => reencodes_unhandled

theorem reencodes_groupF7 : Reencodes 7 [0xF7] bs n (groupF7 p bs n) :=
  reencodes_group fun _ _ _ slot => match slot with
    | 0 => reencodes_tailEIv (k := 0) (fun _ _ he himm => Bool.and_eq_true_iff.mpr ⟨he, himm⟩) fun _ _ => rfl
    | 2 | 3 | 4 | 5 | 6 | 7 => reencodes_tailE (k := 4) (fun _ h => h) fun _ => rfl
    | 1 => reencodes_unhandled

theorem reencodes_groupFE : Reencodes 7 [0xFE] bs n (groupFE p bs n) :=
  reencodes_group fun _ _ _ slot => match slot with
    | 0 | 1 => reencodes_tailE (k := 4) (fun _ h => h) fun _ => rfl
    | 2 | 3 | 4 | 5 | 6 | 7 => reencodes_unhandled

theorem reencodes_group8F : Reencodes 7 [0x8F] bs n (group8F p bs n) :=
  reencodes_group fun _ _ _ slot => match slot with
    | 0 => reencodes_tailE (k := 4) (fun _ h => h) fun _ => rfl
    | 1 | 2 | 3 | 4 | 5 | 6 | 7 => reencodes_unhandled

theorem reencodes_groupC6 : Reencodes 7 [0xC6] bs n (groupC6 p bs n) :=
  reencodes_group fun _ _ _ slot => match slot with
    | 0 => reencodes_tailEIb (k := 3) (fun _ _ h => h) fun _ _ => rfl
    | 1 | 2 | 3 | 4 | 5 | 6 | 7 => reencodes_unhandled

theorem reencodes_groupC7 : Reencodes 7 [0xC7] bs n (groupC7 p bs n) :=
  reencodes_group fun _ _ _ slot => match slot with
    | 0 => reencodes_tailEIv (k := 0) (fun _ _ he himm => Bool.and_eq_true_iff.mpr ⟨he, himm⟩) fun _ _ => rfl
    | 1 | 2 | 3 | 4 | 5 | 6 | 7 => reencodes_unhandled

theorem reencodes_groupFF : Reencodes 7 [0xFF] bs n (groupFF p bs n) :=
  reencodes_group fun _ _ _ slot => match slot with
    | 0 | 1 | 2 | 4 | 6 => reencodes_tailE (k := 4) (fun _ h => h) fun _ => rfl
    | 3 | 5 => reencodes_tailM (k := 4) (fun _ h => h) fun _ => rfl
    | 7 => reencodes_unhandled

/-- A two-byte row (30_encoding.md R165). -/
theorem reencodes_row0F : Reencodes 7 [0x0F] bs n (row0F p bs n) := by
  refine reencodes_takeByte (k := 6) fun op2 bs => ?_
  have hop (x : Byte) (hx : op2.toNat = x.toNat) : op2 = x := BitVec.eq_of_toNat_eq hx
  split
  case h_1 hx =>
    rw [hop 0xB2 hx]
    exact reencodes_rowGM (k := 3) (fun _ _ h => h) fun _ _ => rfl
  case h_2 hx =>
    rw [hop 0xB4 hx]
    exact reencodes_rowGM (k := 3) (fun _ _ h => h) fun _ _ => rfl
  case h_3 hx =>
    rw [hop 0xB5 hx]
    exact reencodes_rowGM (k := 3) (fun _ _ h => h) fun _ _ => rfl
  case h_4 => exact reencodes_unhandled

/-! ### The opcode map (30_encoding.md R140-R143) -/

theorem reencodes_opcodes0 {lo : Nat} (hlo : lo < 16) :
    Reencodes 7 [BitVec.ofNat 8 (16 * 0x0 + lo)] bs n (opcodes0 p bs n lo) := by
  unfold opcodes0
  exact match lo, hlo with
  | 0x0, _ | 0x1, _ | 0x2, _ | 0x3, _ | 0x8, _ | 0x9, _ | 0xA, _ | 0xB, _ =>
    reencodes_rowEG (k := 4) (fun _ _ h => h) fun _ _ => rfl
  | 0x4, _ | 0xC, _ => reencodes_rowIb (k := 6) (fun _ => rfl) fun _ => rfl
  | 0x5, _ | 0xD, _ => reencodes_rowIv (k := 3) (fun _ h => h) fun _ => rfl
  | 0x6, _ | 0x7, _ | 0xE, _ => reencodes_rowNone rfl rfl
  | 0xF, _ => reencodes_row0F
  | _ + 16, h => absurd h (by omega)

theorem reencodes_opcodes1 {lo : Nat} (hlo : lo < 16) :
    Reencodes 7 [BitVec.ofNat 8 (16 * 0x1 + lo)] bs n (opcodes1 p bs n lo) := by
  unfold opcodes1
  exact match lo, hlo with
  | 0x0, _ | 0x1, _ | 0x2, _ | 0x3, _ | 0x8, _ | 0x9, _ | 0xA, _ | 0xB, _ =>
    reencodes_rowEG (k := 4) (fun _ _ h => h) fun _ _ => rfl
  | 0x4, _ | 0xC, _ => reencodes_rowIb (k := 6) (fun _ => rfl) fun _ => rfl
  | 0x5, _ | 0xD, _ => reencodes_rowIv (k := 3) (fun _ h => h) fun _ => rfl
  | 0x6, _ | 0x7, _ | 0xE, _ | 0xF, _ => reencodes_rowNone rfl rfl
  | _ + 16, h => absurd h (by omega)

theorem reencodes_opcodes2 {lo : Nat} (hlo : lo < 16) :
    Reencodes 7 [BitVec.ofNat 8 (16 * 0x2 + lo)] bs n (opcodes2 p bs n lo) := by
  unfold opcodes2
  exact match lo, hlo with
  | 0x0, _ | 0x1, _ | 0x2, _ | 0x3, _ | 0x8, _ | 0x9, _ | 0xA, _ | 0xB, _ =>
    reencodes_rowEG (k := 4) (fun _ _ h => h) fun _ _ => rfl
  | 0x4, _ | 0xC, _ => reencodes_rowIb (k := 6) (fun _ => rfl) fun _ => rfl
  | 0x5, _ | 0xD, _ => reencodes_rowIv (k := 3) (fun _ h => h) fun _ => rfl
  | 0x6, _ | 0xE, _ => reencodes_ok rfl rfl
  | 0x7, _ | 0xF, _ => reencodes_unhandled
  | _ + 16, h => absurd h (by omega)

theorem reencodes_opcodes3 {lo : Nat} (hlo : lo < 16) :
    Reencodes 7 [BitVec.ofNat 8 (16 * 0x3 + lo)] bs n (opcodes3 p bs n lo) := by
  unfold opcodes3
  exact match lo, hlo with
  | 0x0, _ | 0x1, _ | 0x2, _ | 0x3, _ | 0x8, _ | 0x9, _ | 0xA, _ | 0xB, _ =>
    reencodes_rowEG (k := 4) (fun _ _ h => h) fun _ _ => rfl
  | 0x4, _ | 0xC, _ => reencodes_rowIb (k := 6) (fun _ => rfl) fun _ => rfl
  | 0x5, _ | 0xD, _ => reencodes_rowIv (k := 3) (fun _ h => h) fun _ => rfl
  | 0x6, _ | 0xE, _ => reencodes_ok rfl rfl
  | 0x7, _ | 0xF, _ => reencodes_unhandled
  | _ + 16, h => absurd h (by omega)

theorem reencodes_opcodes4 {lo : Nat} (hlo : lo < 16) :
    Reencodes 7 [BitVec.ofNat 8 (16 * 0x4 + lo)] bs n (opcodes4 p bs n lo) := by
  unfold opcodes4
  exact match lo, hlo with
  | 0x0, _ | 0x1, _ | 0x2, _ | 0x3, _ | 0x4, _ | 0x5, _ | 0x6, _ | 0x7, _ | 0x8, _ | 0x9, _
  | 0xA, _ | 0xB, _ | 0xC, _ | 0xD, _ | 0xE, _ | 0xF, _ =>
    reencodes_rowNone rfl rfl
  | _ + 16, h => absurd h (by omega)

theorem reencodes_opcodes5 {lo : Nat} (hlo : lo < 16) :
    Reencodes 7 [BitVec.ofNat 8 (16 * 0x5 + lo)] bs n (opcodes5 p bs n lo) := by
  unfold opcodes5
  exact match lo, hlo with
  | 0x0, _ | 0x1, _ | 0x2, _ | 0x3, _ | 0x4, _ | 0x5, _ | 0x6, _ | 0x7, _ | 0x8, _ | 0x9, _
  | 0xA, _ | 0xB, _ | 0xC, _ | 0xD, _ | 0xE, _ | 0xF, _ =>
    reencodes_rowNone rfl rfl
  | _ + 16, h => absurd h (by omega)

theorem reencodes_opcodes6 {lo : Nat} (hlo : lo < 16) :
    Reencodes 7 [BitVec.ofNat 8 (16 * 0x6 + lo)] bs n (opcodes6 p bs n lo) := by
  unfold opcodes6
  exact match lo, hlo with
  | 0x4, _ | 0x5, _ | 0x6, _ => reencodes_ok rfl rfl
  | 0x0, _ | 0x1, _ | 0x2, _ | 0x3, _ | 0x7, _ | 0x8, _ | 0x9, _ | 0xA, _ | 0xB, _ | 0xC, _ | 0xD, _ | 0xE, _ | 0xF, _ =>
    reencodes_unhandled
  | _ + 16, h => absurd h (by omega)

theorem reencodes_opcodes7 {lo : Nat} (hlo : lo < 16) :
    Reencodes 7 [BitVec.ofNat 8 (16 * 0x7 + lo)] bs n (opcodes7 p bs n lo) := by
  unfold opcodes7
  exact match lo, hlo with
  | 0x0, _ | 0x1, _ | 0x2, _ | 0x3, _ | 0x4, _ | 0x5, _ | 0x6, _ | 0x7, _ | 0x8, _ | 0x9, _
  | 0xA, _ | 0xB, _ | 0xC, _ | 0xD, _ | 0xE, _ | 0xF, _ =>
    reencodes_rowIb (k := 6) (fun _ => rfl) fun _ => rfl
  | _ + 16, h => absurd h (by omega)

theorem reencodes_opcodes8 {lo : Nat} (hlo : lo < 16) :
    Reencodes 7 [BitVec.ofNat 8 (16 * 0x8 + lo)] bs n (opcodes8 p bs n lo) := by
  unfold opcodes8
  exact match lo, hlo with
  | 0x0, _ => reencodes_group80
  | 0x1, _ => reencodes_group81
  | 0x3, _ => reencodes_group83
  | 0x4, _ | 0x5, _ | 0x6, _ | 0x7, _ | 0x8, _ | 0x9, _ | 0xA, _ | 0xB, _ =>
    reencodes_rowEG (k := 4) (fun _ _ h => h) fun _ _ => rfl
  | 0xC, _ => reencodes_rowFromSreg (k := 4)
  | 0xD, _ => reencodes_rowGM (k := 4) (fun _ _ h => h) fun _ _ => rfl
  | 0xE, _ => reencodes_rowToSreg (k := 4)
  | 0xF, _ => reencodes_group8F
  | 0x2, _ => reencodes_unhandled
  | _ + 16, h => absurd h (by omega)

theorem reencodes_opcodes9 {lo : Nat} (hlo : lo < 16) :
    Reencodes 7 [BitVec.ofNat 8 (16 * 0x9 + lo)] bs n (opcodes9 p bs n lo) := by
  unfold opcodes9
  exact match lo, hlo with
  | 0x0, _ | 0x1, _ | 0x2, _ | 0x3, _ | 0x4, _ | 0x5, _ | 0x6, _ | 0x7, _ | 0xC, _ | 0xD, _ | 0xE, _ | 0xF, _ =>
    reencodes_rowNone rfl rfl
  | 0x8, _ | 0x9, _ => reencodes_rowNone (by cases p.osz <;> rfl) (by cases p.osz <;> rfl)
  | 0xA, _ => reencodes_rowFar (k := 3) (fun _ _ => rfl) fun _ _ => rfl
  | 0xB, _ => reencodes_unhandled
  | _ + 16, h => absurd h (by omega)

theorem reencodes_opcodesA {lo : Nat} (hlo : lo < 16) :
    Reencodes 7 [BitVec.ofNat 8 (16 * 0xA + lo)] bs n (opcodesA p bs n lo) := by
  unfold opcodesA
  exact match lo, hlo with
  | 0x0, _ | 0x1, _ | 0x2, _ | 0x3, _ => reencodes_rowIw (k := 5) (fun _ => rfl) fun _ => rfl
  | 0x4, _ | 0xA, _ | 0xC, _ => reencodes_rowStringB rfl rfl rfl rfl fun _ h => by cases h
  | 0x6, _ | 0xE, _ => reencodes_rowStringB rfl rfl rfl rfl fun _ h => by cases h; exact ⟨rfl, rfl⟩
  | 0x5, _ | 0xB, _ | 0xD, _ =>
    reencodes_rowStringV (reencodes_rowStringB rfl rfl rfl rfl fun _ h => by cases h)
      (reencodes_rowStringB rfl rfl rfl rfl fun _ h => by cases h)
  | 0x7, _ | 0xF, _ =>
    reencodes_rowStringV (reencodes_rowStringB rfl rfl rfl rfl fun _ h => by cases h; exact ⟨rfl, rfl⟩)
      (reencodes_rowStringB rfl rfl rfl rfl fun _ h => by cases h; exact ⟨rfl, rfl⟩)
  | 0x8, _ => reencodes_rowIb (k := 6) (fun _ => rfl) fun _ => rfl
  | 0x9, _ => reencodes_rowIv (k := 3) (fun _ h => h) fun _ => rfl
  | _ + 16, h => absurd h (by omega)

theorem reencodes_opcodesB {lo : Nat} (hlo : lo < 16) :
    Reencodes 7 [BitVec.ofNat 8 (16 * 0xB + lo)] bs n (opcodesB p bs n lo) := by
  unfold opcodesB
  exact match lo, hlo with
  | 0x0, _ | 0x1, _ | 0x2, _ | 0x3, _ | 0x4, _ | 0x5, _ | 0x6, _ | 0x7, _ =>
    reencodes_rowIb (k := 6) (fun _ => rfl) fun _ => rfl
  | 0x8, _ | 0x9, _ | 0xA, _ | 0xB, _ | 0xC, _ | 0xD, _ | 0xE, _ | 0xF, _ =>
    reencodes_rowIv (k := 3) (fun _ h => h) fun _ => rfl
  | _ + 16, h => absurd h (by omega)

theorem reencodes_opcodesC {lo : Nat} (hlo : lo < 16) :
    Reencodes 7 [BitVec.ofNat 8 (16 * 0xC + lo)] bs n (opcodesC p bs n lo) := by
  unfold opcodesC
  exact match lo, hlo with
  | 0x0, _ => reencodes_groupC0
  | 0x1, _ => reencodes_groupC1
  | 0x2, _ | 0xA, _ => reencodes_rowIw (k := 5) (fun _ => rfl) fun _ => rfl
  | 0x3, _ | 0xB, _ | 0xC, _ | 0xE, _ | 0xF, _ => reencodes_rowNone rfl rfl
  | 0x4, _ | 0x5, _ => reencodes_rowGM (k := 4) (fun _ _ h => h) fun _ _ => rfl
  | 0x6, _ => reencodes_groupC6
  | 0x7, _ => reencodes_groupC7
  | 0xD, _ => reencodes_rowIb (k := 6) (fun _ => rfl) fun _ => rfl
  | 0x8, _ | 0x9, _ => reencodes_unhandled
  | _ + 16, h => absurd h (by omega)

theorem reencodes_opcodesD {lo : Nat} (hlo : lo < 16) :
    Reencodes 7 [BitVec.ofNat 8 (16 * 0xD + lo)] bs n (opcodesD p bs n lo) := by
  unfold opcodesD
  exact match lo, hlo with
  | 0x0, _ => reencodes_groupD0
  | 0x1, _ => reencodes_groupD1
  | 0x2, _ => reencodes_groupD2
  | 0x3, _ => reencodes_groupD3
  | 0x7, _ => reencodes_rowNone rfl rfl
  | 0x4, _ | 0x5, _ | 0x6, _ | 0x8, _ | 0x9, _ | 0xA, _ | 0xB, _ | 0xC, _ | 0xD, _ | 0xE, _ | 0xF, _ => reencodes_unhandled
  | _ + 16, h => absurd h (by omega)

theorem reencodes_opcodesE {lo : Nat} (hlo : lo < 16) :
    Reencodes 7 [BitVec.ofNat 8 (16 * 0xE + lo)] bs n (opcodesE p bs n lo) := by
  unfold opcodesE
  exact match lo, hlo with
  | 0x0, _ | 0x1, _ | 0x2, _ | 0x3, _ | 0xB, _ => reencodes_rowIb (k := 6) (fun _ => rfl) fun _ => rfl
  | 0x8, _ | 0x9, _ => reencodes_rowIw (k := 5) (fun _ => rfl) fun _ => rfl
  | 0xA, _ => reencodes_rowFar (k := 3) (fun _ _ => rfl) fun _ _ => rfl
  | 0x4, _ | 0x5, _ | 0x6, _ | 0x7, _ | 0xC, _ | 0xD, _ | 0xE, _ | 0xF, _ => reencodes_unhandled
  | _ + 16, h => absurd h (by omega)

theorem reencodes_opcodesF {lo : Nat} (hlo : lo < 16) :
    Reencodes 7 [BitVec.ofNat 8 (16 * 0xF + lo)] bs n (opcodesF p bs n lo) := by
  unfold opcodesF
  exact match lo, hlo with
  | 0x2, _ | 0x3, _ => reencodes_ok rfl rfl
  | 0x4, _ | 0x5, _ | 0x8, _ | 0x9, _ | 0xA, _ | 0xB, _ | 0xC, _ | 0xD, _ => reencodes_rowNone rfl rfl
  | 0x6, _ => reencodes_groupF6
  | 0x7, _ => reencodes_groupF7
  | 0xE, _ => reencodes_groupFE
  | 0xF, _ => reencodes_groupFF
  | 0x0, _ | 0x1, _ => reencodes_unhandled
  | _ + 16, h => absurd h (by omega)

theorem reencodes_decodeOpcode (op : Byte) : Reencodes 7 [op] bs n (decodeOpcode p op bs n) := by
  have hhi : op.toNat / 16 < 16 := by have := op.isLt; omega
  have hlo : op.toNat % 16 < 16 := Nat.mod_lt _ (by omega)
  have heq : op = BitVec.ofNat 8 (16 * (op.toNat / 16) + op.toNat % 16) := by
    rw [Nat.div_add_mod, BitVec.ofNat_toNat, BitVec.setWidth_eq]
  unfold decodeOpcode
  dsimp only
  generalize op.toNat / 16 = hi at hhi heq ⊢
  generalize op.toNat % 16 = lo at hlo heq ⊢
  subst heq
  exact match hi, hhi with
  | 0x0, _ => reencodes_opcodes0 hlo
  | 0x1, _ => reencodes_opcodes1 hlo
  | 0x2, _ => reencodes_opcodes2 hlo
  | 0x3, _ => reencodes_opcodes3 hlo
  | 0x4, _ => reencodes_opcodes4 hlo
  | 0x5, _ => reencodes_opcodes5 hlo
  | 0x6, _ => reencodes_opcodes6 hlo
  | 0x7, _ => reencodes_opcodes7 hlo
  | 0x8, _ => reencodes_opcodes8 hlo
  | 0x9, _ => reencodes_opcodes9 hlo
  | 0xA, _ => reencodes_opcodesA hlo
  | 0xB, _ => reencodes_opcodesB hlo
  | 0xC, _ => reencodes_opcodesC hlo
  | 0xD, _ => reencodes_opcodesD hlo
  | 0xE, _ => reencodes_opcodesE hlo
  | 0xF, _ => reencodes_opcodesF hlo
  | _ + 16, h => absurd h (by omega)

end Reencodes

theorem reencodes_decodeUnit (p : Prefixes) (bs : List Byte) : Reencodes 8 [] bs 0 (decodeUnit p bs) :=
  reencodes_takeByte fun op _ => reencodes_decodeOpcode op

/-- Settles O3: what a unit was decoded from is what the encoder writes, row by row. -/
theorem decodedUnitReencodes : Obligations.DecodedUnitReencodes := by
  intro p bs i n h
  have hunit := reencodes_decodeUnit p bs
  rw [h] at hunit
  obtain ⟨hwf, xs, ⟨rest, rfl⟩, -, rfl, henc⟩ := hunit
  exact ⟨hwf, by rw [henc, Nat.zero_add, List.take_left, List.nil_append]⟩

/-! ## Decoding the encoder's bytes -/

section
open Laws.EncodeDecode

/-- Every row is read back from its bytes: the table of the lemmas for each constructor. -/
theorem decodeUnit_encodeUnit (i : Instr) : Statement i :=
  Instr.casesOn i addEbGb addEvGv addGbEb addGvEv addAlIb addEaxIv orEbGb orEvGv orGbEb orGvEv orAlIb orEaxIv adcEbGb
    adcEvGv adcGbEb adcGvEv adcAlIb adcEaxIv sbbEbGb sbbEvGv sbbGbEb sbbGvEv sbbAlIb sbbEaxIv andEbGb andEvGv andGbEb
    andGvEv andAlIb andEaxIv subEbGb subEvGv subGbEb subGvEv subAlIb subEaxIv xorEbGb xorEvGv xorGbEb xorGvEv xorAlIb
    xorEaxIv cmpEbGb cmpEvGv cmpGbEb cmpGvEv cmpAlIb cmpEaxIv addEbIb addEvIv addEvSIb orEbIb orEvIv orEvSIb adcEbIb
    adcEvIv adcEvSIb sbbEbIb sbbEvIv sbbEvSIb andEbIb andEvIv andEvSIb subEbIb subEvIv subEvSIb xorEbIb xorEvIv
    xorEvSIb cmpEbIb cmpEvIv cmpEvSIb testEbGb testEvGv testAlIb testEaxIv testEbIb testEvIv incReg incEb incEv decReg
    decEb decEv notEb notEv negEb negEv mulEb mulEv imulEb imulEv divEb divEv idivEb idivEv rolEbIb rolEvIb rolEb1
    rolEv1 rolEbCl rolEvCl rorEbIb rorEvIb rorEb1 rorEv1 rorEbCl rorEvCl rclEbIb rclEvIb rclEb1 rclEv1 rclEbCl rclEvCl
    rcrEbIb rcrEvIb rcrEb1 rcrEv1 rcrEbCl rcrEvCl shlEbIb shlEvIb shlEb1 shlEv1 shlEbCl shlEvCl shrEbIb shrEvIb shrEb1
    shrEv1 shrEbCl shrEvCl sarEbIb sarEvIb sarEb1 sarEv1 sarEbCl sarEvCl jo jno jc jnc jz jnz jbe ja js jns jpe jpo jl
    jge jle jg loopne loope loop jcxz jmpRel16 jmpRel8 jmpEv jmpFar jmpMp callRel16 callEv callFar callMp retIw retfIw
    intIb movsb repMovsb movsw repMovsw movsd repMovsd cmpsb repeCmpsb repneCmpsb cmpsw repeCmpsw repneCmpsw cmpsd
    repeCmpsd repneCmpsd lodsb repLodsb lodsw repLodsw lodsd repLodsd movEbGb movEvGv movGbEb movGvEv movRegIb
    movRegIv movEbIb movEvIv movAlMoffs movEaxMoffs movMoffsAl movMoffsEax movEwSw movSwEw xchgEbGb xchgEvGv xchgEaxCx
    xchgEaxDx xchgEaxBx xchgEaxSp xchgEaxBp xchgEaxSi xchgEaxDi nop leaGvM lesGvMp ldsGvMp lssGvMp lfsGvMp lgsGvMp
    xlat pushReg pushEv popReg popEv cbw cwde cwd cdq clc stc cmc cld std cli sti lahf sahf pushf popf ret retf int3
    into iret hlt stosb repStosb stosw repStosw stosd repStosd scasb repeScasb repneScasb scasw repeScasw repneScasw
    scasd repeScasd repneScasd pushEs pushCs pushSs pushDs popEs popSs popDs segEs segCs segSs segDs segFs segGs
    opSize repE repNe

end

/-- A unit is what the decoder reads of it. -/
theorem length_encodeUnit_le (i : Instr) (hwf : i.wf = true) : (encodeUnit i).length ≤ 8 := by
  have hunit := reencodes_decodeUnit i.prefixes (encodeUnit i ++ [])
  rw [decodeUnit_encodeUnit i hwf []] at hunit
  obtain ⟨-, xs, -, hlen, hn, -⟩ := hunit
  omega

/-- The units of the prefixes of a decoder state, in the encoder's order. -/
def Prefixes.units (p : Prefixes) : List Prefix :=
  p.segOvr.toList.map .seg ++ (match p.osz with | .o16 => [] | .o32 => [.opSize]) ++
    (match p.rep with | none => [] | some .z => [.repZ] | some .nz => [.repNZ])

/-- The bytes of the encoder's prefixes are those of at most three units, which give the decoder state back. -/
theorem Prefixes.units_spec (p : Prefixes) :
    p.bytes = p.units.map prefixByte ∧ p.units.foldl Prefixes.collect {} = p ∧ p.units.length ≤ 3 := by
  obtain ⟨segOvr, osz, rep⟩ := p
  cases osz <;> obtain _ | (_ | _) := rep <;> obtain _ | (_ | _ | _ | _ | _ | _) := segOvr <;>
    exact ⟨rfl, rfl, by decide⟩

theorem length_encode_le (i : Instr) (hwf : i.wf = true) : (encode i).length ≤ maxLength := by
  obtain ⟨hbytes, -, hlen⟩ := i.prefixes.units_spec
  have hunit := length_encodeUnit_le i hwf
  rw [encode, List.length_append, hbytes, List.length_map, maxLength]
  omega

/-- Settles O2: the prefixes are read one after the other, then the unit under the prefixes they give. -/
theorem decodeEncode : Obligations.DecodeEncode := by
  intro i rest hwf hprefix
  obtain ⟨hbytes, hcollect, hlen⟩ := i.prefixes.units_spec
  have hfuel : maxLength = i.prefixes.units.length + (14 - i.prefixes.units.length + 1) := by
    rw [maxLength]; omega
  rw [decode_ok_iff, List.take_append, List.take_of_length_le (length_encode_le i hwf), encode, hbytes, List.append_assoc,
    hfuel, decodeUnits_prefixBytes, hcollect, decodeUnits, decodeUnit_encodeUnit i hwf]
  simp [hprefix]

/-! ## Refused encodings (30_encoding.md R170) -/

/-- The row of a group slot. -/
theorem takeModRM_slot {m : Byte} {rest : List Byte} {n : Nat} {slot : BitVec 3}
    {f : BitVec 2 → BitVec 3 → BitVec 3 → List Byte → Nat → Decoded} (h : m.extractLsb' 3 3 = slot) :
    takeModRM (m :: rest) n f = f (m.extractLsb' 6 2) slot (m.extractLsb' 0 3) rest (n + 1) := by
  rw [← h]; rfl

theorem group8F_refused {p : Prefixes} {m : Byte} {rest : List Byte} (h : m.extractLsb' 3 3 ≠ 0#3) :
    group8F p (m :: rest) 1 = .unhandled 2 := by
  rw [group8F, takeModRM_slot rfl]
  split
  case h_1 hslot => exact absurd (BitVec.eq_of_toNat_eq hslot) h
  case h_2 => rfl

theorem groupC6_refused {p : Prefixes} {m : Byte} {rest : List Byte} (h : m.extractLsb' 3 3 ≠ 0#3) :
    groupC6 p (m :: rest) 1 = .unhandled 2 := by
  rw [groupC6, takeModRM_slot rfl]
  split
  case h_1 hslot => exact absurd (BitVec.eq_of_toNat_eq hslot) h
  case h_2 => rfl

theorem groupC7_refused {p : Prefixes} {m : Byte} {rest : List Byte} (h : m.extractLsb' 3 3 ≠ 0#3) :
    groupC7 p (m :: rest) 1 = .unhandled 2 := by
  rw [groupC7, takeModRM_slot rfl]
  split
  case h_1 hslot => exact absurd (BitVec.eq_of_toNat_eq hslot) h
  case h_2 => rfl

theorem groupFE_refused {p : Prefixes} {m : Byte} {rest : List Byte} (h0 : m.extractLsb' 3 3 ≠ 0#3)
    (h1 : m.extractLsb' 3 3 ≠ 1#3) : groupFE p (m :: rest) 1 = .unhandled 2 := by
  rw [groupFE, takeModRM_slot rfl]
  split
  case h_1 hslot => exact absurd (BitVec.eq_of_toNat_eq hslot) h0
  case h_2 hslot => exact absurd (BitVec.eq_of_toNat_eq hslot) h1
  case h_3 => rfl

theorem row0F_refused {p : Prefixes} {m : Byte} {rest : List Byte} (h : m ∉ ([0xB2, 0xB4, 0xB5] : List Byte)) :
    row0F p (m :: rest) 1 = .unhandled 2 := by
  have hne (x : Byte) (hx : m.toNat = x.toNat) : m = x := BitVec.eq_of_toNat_eq hx
  simp only [List.mem_cons, List.not_mem_nil, or_false, not_or] at h
  obtain ⟨hB2, hB4, hB5⟩ := h
  show (match m.toNat with | 0xB2 => _ | 0xB4 => _ | 0xB5 => _ | _ => _) = _
  split
  case h_1 hx => exact absurd (hne 0xB2 hx) hB2
  case h_2 hx => exact absurd (hne 0xB4 hx) hB4
  case h_3 hx => exact absurd (hne 0xB5 hx) hB5
  case h_4 => rfl

/-- Settles O5: the opcodes by evaluation, the groups by their slot. -/
theorem refusedEncodings : Obligations.RefusedEncodings := by
  intro p op m rest slot
  refine ⟨fun hop => ?_, fun hop hslot => ?_, fun hop hslot => ?_, fun hop hslot => ?_, ?_, ?_, ?_⟩
  · repeat
      obtain rfl | hop := List.mem_cons.mp hop
      · rfl
    cases hop
  · simp only [List.mem_cons, List.not_mem_nil, or_false] at hop
    obtain rfl | rfl | rfl := hop
    · exact group8F_refused hslot
    · exact groupC6_refused hslot
    · exact groupC7_refused hslot
  · simp only [List.mem_cons, List.not_mem_nil, or_false] at hop
    obtain rfl | rfl | rfl | rfl | rfl | rfl := hop
    · exact (takeModRM_slot hslot : groupC0 p (m :: rest) 1 = _)
    · exact (takeModRM_slot hslot : groupC1 p (m :: rest) 1 = _)
    · exact (takeModRM_slot hslot : groupD0 p (m :: rest) 1 = _)
    · exact (takeModRM_slot hslot : groupD1 p (m :: rest) 1 = _)
    · exact (takeModRM_slot hslot : groupD2 p (m :: rest) 1 = _)
    · exact (takeModRM_slot hslot : groupD3 p (m :: rest) 1 = _)
  · simp only [List.mem_cons, List.not_mem_nil, or_false] at hop
    obtain rfl | rfl := hop
    · exact (takeModRM_slot hslot : groupF6 p (m :: rest) 1 = _)
    · exact (takeModRM_slot hslot : groupF7 p (m :: rest) 1 = _)
  · rintro rfl h0 h1
    exact groupFE_refused h0 h1
  · rintro rfl hslot
    exact (takeModRM_slot hslot : groupFF p (m :: rest) 1 = _)
  · rintro rfl hm
    exact row0F_refused hm

/-- Settles O1: by evaluation. -/
theorem decodeKnownWords : Obligations.DecodeKnownWords := by
  unfold Obligations.DecodeKnownWords
  decide

end Sys2Proof
end

section
/-! The families of instructions, and which of them can end without a next state (30_encoding.md R132, 60_exceptions.md R611). -/

namespace Sys2Proof.Machine

/-- The families of the instruction set: each instruction has a form, or is one of those named here. -/
inductive Family (s : State) : Instr → Prop
  | cbw : Family s .cbw
  | cwde : Family s .cwde
  | cwd : Family s .cwd
  | cdq : Family s .cdq
  | clc : Family s .clc
  | stc : Family s .stc
  | cmc : Family s .cmc
  | cld : Family s .cld
  | std : Family s .std
  | cli : Family s .cli
  | sti : Family s .sti
  | lahf : Family s .lahf
  | sahf : Family s .sahf
  | pushf : Family s .pushf
  | popf : Family s .popf
  | jcxz (d) : Family s (.jcxz d)
  | loop (d) : Family s (.loop d)
  | loope (d) : Family s (.loope d)
  | loopne (d) : Family s (.loopne d)
  | jmpRel8 (d) : Family s (.jmpRel8 d)
  | jmpRel16 (d) : Family s (.jmpRel16 d)
  | jmpEv (e) : Family s (.jmpEv e)
  | jmpFar (sel off) : Family s (.jmpFar sel off)
  | jmpMp (m) : Family s (.jmpMp m)
  | callRel16 (d) : Family s (.callRel16 d)
  | callEv (e) : Family s (.callEv e)
  | callFar (sel off) : Family s (.callFar sel off)
  | callMp (m) : Family s (.callMp m)
  | ret : Family s .ret
  | retIw (n) : Family s (.retIw n)
  | retf : Family s .retf
  | retfIw (n) : Family s (.retfIw n)
  | iret : Family s .iret
  | hlt : Family s .hlt
  | nop (o) : Family s (.nop o)
  | lea (o g m) : Family s (.leaGvM o g m)
  | xlat (ovr) : Family s (.xlat ovr)
  | binary {i f} (h : binaryForm i s = some f) : Family s i
  | test {i f} (h : testForm i s = some f) : Family s i
  | unary {i f} (h : unaryForm i s = some f) : Family s i
  | mulDiv {i f} (h : mulDivForm i s = some f) : Family s i
  | shift {i f} (h : shiftForm i s = some f) : Family s i
  | string {i f} (h : stringForm i = some f) : Family s i
  | repeated {i f} (h : repeatForm i = some f) : Family s i
  | move {i f} (h : moveForm i s = some f) : Family s i
  | exchange {i f} (h : exchangeForm i s = some f) : Family s i
  | farLoad {i f} (h : farLoadForm i = some f) : Family s i
  | push {i op} (h : pushForm i s = some op) : Family s i
  | pop {i op} (h : popForm i s = some op) : Family s i
  | shortJump {i c d} (h : shortJump i = some (c, d)) : Family s i
  | interrupt {i n} (h : interruptVector i = some n) : Family s i
  | prefixUnit {i q} (h : i.asPrefix = some q) : Family s i

/-- Every instruction is in a family: the one whose form answers it. -/
theorem family (s : State) (i : Instr) : Family s i := by
  cases i
  case addEbGb | addEvGv | addGbEb | addGvEv | addAlIb | addEaxIv | orEbGb | orEvGv | orGbEb | orGvEv | orAlIb |
    orEaxIv | adcEbGb | adcEvGv | adcGbEb | adcGvEv | adcAlIb | adcEaxIv | sbbEbGb | sbbEvGv | sbbGbEb | sbbGvEv |
    sbbAlIb | sbbEaxIv | andEbGb | andEvGv | andGbEb | andGvEv | andAlIb | andEaxIv | subEbGb | subEvGv | subGbEb |
    subGvEv | subAlIb | subEaxIv | xorEbGb | xorEvGv | xorGbEb | xorGvEv | xorAlIb | xorEaxIv | cmpEbGb | cmpEvGv |
    cmpGbEb | cmpGvEv | cmpAlIb | cmpEaxIv | addEbIb | addEvIv | addEvSIb | orEbIb | orEvIv | orEvSIb | adcEbIb |
    adcEvIv | adcEvSIb | sbbEbIb | sbbEvIv | sbbEvSIb | andEbIb | andEvIv | andEvSIb | subEbIb | subEvIv | subEvSIb
    | xorEbIb | xorEvIv | xorEvSIb | cmpEbIb | cmpEvIv | cmpEvSIb => exact .binary rfl
  case testEbGb | testEvGv | testAlIb | testEaxIv | testEbIb | testEvIv => exact .test rfl
  case incReg | incEb | incEv | decReg | decEb | decEv | notEb | notEv | negEb | negEv => exact .unary rfl
  case mulEb | mulEv | imulEb | imulEv | divEb | divEv | idivEb | idivEv => exact .mulDiv rfl
  case rolEbIb | rolEvIb | rolEb1 | rolEv1 | rolEbCl | rolEvCl | rorEbIb | rorEvIb | rorEb1 | rorEv1 | rorEbCl |
    rorEvCl | rclEbIb | rclEvIb | rclEb1 | rclEv1 | rclEbCl | rclEvCl | rcrEbIb | rcrEvIb | rcrEb1 | rcrEv1 |
    rcrEbCl | rcrEvCl | shlEbIb | shlEvIb | shlEb1 | shlEv1 | shlEbCl | shlEvCl | shrEbIb | shrEvIb | shrEb1 |
    shrEv1 | shrEbCl | shrEvCl | sarEbIb | sarEvIb | sarEb1 | sarEv1 | sarEbCl | sarEvCl => exact .shift rfl
  case jo | jno | jc | jnc | jz | jnz | jbe | ja | js | jns | jpe | jpo | jl | jge | jle | jg => exact .shortJump rfl
  case intIb | int3 | into => exact .interrupt rfl
  case movsb | movsw | movsd | cmpsb | cmpsw | cmpsd | lodsb | lodsw | lodsd | stosb | stosw | stosd | scasb | scasw
    | scasd => exact .string rfl
  case repMovsb | repMovsw | repMovsd | repeCmpsb | repneCmpsb | repeCmpsw | repneCmpsw | repeCmpsd | repneCmpsd |
    repLodsb | repLodsw | repLodsd | repStosb | repStosw | repStosd | repeScasb | repneScasb | repeScasw |
    repneScasw | repeScasd | repneScasd => exact .repeated rfl
  case movEbGb | movEvGv | movGbEb | movGvEv | movRegIb | movRegIv | movEbIb | movEvIv | movAlMoffs | movEaxMoffs |
    movMoffsAl | movMoffsEax | movEwSw | movSwEw => exact .move rfl
  case xchgEbGb | xchgEvGv | xchgEaxCx | xchgEaxDx | xchgEaxBx | xchgEaxSp | xchgEaxBp | xchgEaxSi | xchgEaxDi =>
    exact .exchange rfl
  case lesGvMp | ldsGvMp | lssGvMp | lfsGvMp | lgsGvMp => exact .farLoad rfl
  case pushReg | pushEv | pushEs | pushCs | pushSs | pushDs => exact .push rfl
  case popReg | popEv | popEs | popSs | popDs => exact .pop rfl
  case segEs | segCs | segSs | segDs | segFs | segGs | opSize | repE | repNe => exact .prefixUnit rfl
  case loopne | loope | loop | jcxz | jmpRel16 | jmpRel8 | jmpEv | jmpFar | jmpMp | callRel16 | callEv | callFar |
    callMp | retIw | retfIw | nop | leaGvM | xlat | cbw | cwde | cwd | cdq | clc | stc | cmc | cld | std | cli | sti
    | lahf | sahf | pushf | popf | ret | retf | iret | hlt => constructor

/-! ## Meanings that answer a next state -/

/-- The meaning answers a next state, faulted or not. -/
def Answers (r : Result) : Prop := ∃ t, r = .next t

theorem answers_next (t : State) : Answers (.next t) := ⟨t, rfl⟩

theorem answers_done (s : State) : Answers (done s) := ⟨_, rfl⟩

theorem answers_raise (info : FaultInfo) (ps : List Place) (s : State) : Answers (raise info ps s) := ⟨_, rfl⟩

theorem answers_orRaise {α : Type} {s : State} {ps : List Place} {x : Except FaultInfo α} {k : α → Result}
    (h : ∀ a, Answers (k a)) : Answers (orRaise s ps x k) := by
  cases x with
  | ok a => exact h a
  | error c => exact answers_raise c ps s

theorem answers_ite {c : Prop} [Decidable c] {r q : Result} (hr : Answers r) (hq : Answers q) :
    Answers (if c then r else q) := by
  split
  · exact hr
  · exact hq

theorem answers_binaryAlu (op : BinOp) (w : Width) (dst src : Operand) (s : State) : Answers (binaryAlu op w dst src s) :=
  answers_orRaise fun _ => answers_orRaise fun _ => by
    cases op with
    | cmp => exact answers_done _
    | _ => exact answers_orRaise answers_done

theorem answers_mulDivMeaning (f : MulDivForm) (s : State) : Answers (mulDivMeaning f s) := by
  unfold mulDivMeaning
  split
  case h_1 | h_2 => exact answers_orRaise fun _ => answers_done _
  case h_3 | h_4 =>
    exact answers_orRaise fun _ => answers_ite (answers_raise _ _ s) (answers_ite (answers_raise _ _ s) (answers_done _))

theorem answers_shiftWrite (op : ShiftOp) (w : Width) (dst : Operand) (c : Nat) (r : BitVec w.bits) (cf of : Bool) (s : State) :
    Answers (shiftWrite op w dst c r cf of s) := answers_orRaise fun _ => answers_done _

theorem answers_shiftOp (op : ShiftOp) (w : Width) (dst : Operand) (src : Byte) (s : State) :
    Answers (shiftOp op w dst src s) :=
  answers_orRaise fun a => answers_ite (answers_done s) (by
    split
    · exact answers_done s
    · exact answers_shiftWrite ..
    · exact answers_shiftWrite ..)

theorem answers_stringRepeat (op : StrOp) (w : Width) (ovr : Option SReg) (kind : Repeat) (s : State) :
    Answers (stringRepeat op w ovr kind s) := by
  unfold stringRepeat
  split
  · exact answers_done _
  · exact answers_raise ..

theorem answers_pushValue (v : Word) (s : State) : Answers (pushValue v s) := answers_orRaise answers_done

theorem answers_jumpIf (c : Bool) (d : Byte) (s : State) : Answers (jumpIf c d s) :=
  answers_ite (answers_next _) (answers_done s)

theorem answers_callNear (target : Word) (s : State) : Answers (callNear target s) :=
  answers_orRaise fun _ => answers_next _

theorem answers_callFarTo (sel off : Word) (s : State) : Answers (callFarTo sel off s) :=
  answers_orRaise fun _ => answers_orRaise fun _ => answers_next _

theorem answers_returnNear (n : Word) (s : State) : Answers (returnNear n s) := answers_orRaise fun _ => answers_next _

theorem answers_returnFar (n : Word) (s : State) : Answers (returnFar n s) :=
  answers_orRaise fun _ => answers_orRaise fun _ => answers_next _

theorem answers_enterVector (n : Byte) (s : State) : Answers (enterVector n s) :=
  answers_orRaise fun _ => answers_orRaise fun _ => answers_orRaise fun _ => answers_orRaise fun _ =>
    answers_orRaise fun _ => answers_next _

/-- Only a software interrupt can end without a next state. -/
theorem exec_answers (i : Instr) (s : State) (h : interruptVector i = none) : Answers (exec i s) := by
  cases family s i with
  | binary hf => rw [exec_binaryForm hf]; exact answers_binaryAlu ..
  | test hf => rw [exec_testForm hf]; exact answers_orRaise fun _ => answers_orRaise fun _ => answers_done _
  | unary hf => rw [exec_unaryForm hf]; exact answers_orRaise fun _ => answers_orRaise answers_done
  | mulDiv hf => rw [exec_mulDivForm hf]; exact answers_mulDivMeaning ..
  | shift hf => rw [exec_shiftForm hf]; exact answers_shiftOp ..
  | string hf => rw [exec_stringForm s hf]; exact answers_orRaise answers_done
  | repeated hf => rw [exec_repeatForm s hf]; exact answers_stringRepeat ..
  | move hf => rw [exec_moveForm hf]; exact answers_orRaise fun _ => answers_orRaise answers_done
  | exchange hf =>
    rw [exec_exchangeForm hf]
    exact answers_orRaise fun _ => answers_orRaise fun _ => answers_orRaise fun _ => answers_orRaise answers_done
  | farLoad hf => rw [exec_farLoadForm s hf]; exact answers_orRaise fun _ => answers_done _
  | push hf => rw [exec_pushForm hf]; exact answers_orRaise fun _ => answers_pushValue _ s
  | pop hf => rw [exec_popForm hf]; exact answers_orRaise fun _ => answers_orRaise answers_done
  | shortJump hf => rw [exec_shortJump s hf]; exact answers_jumpIf ..
  | interrupt hf => exact absurd (hf.symm.trans h) nofun
  | prefixUnit hf => exact ⟨_, exec_prefix i _ s hf⟩
  | cbw | cwde | cwd | cdq => exact answers_done _
  | clc | stc | cmc | cld | std | cli | sti | lahf | sahf | nop | lea => exact answers_done _
  | pushf => exact answers_pushValue _ s
  | popf => exact answers_orRaise fun _ => answers_done _
  | jcxz | loop | loope | loopne => exact answers_jumpIf ..
  | jmpRel8 | jmpRel16 | jmpFar | hlt => exact answers_next _
  | jmpEv | jmpMp => exact answers_orRaise fun _ => answers_next _
  | callRel16 => exact answers_callNear _ s
  | callEv => exact answers_orRaise fun _ => answers_callNear _ s
  | callFar => exact answers_callFarTo _ _ s
  | callMp => exact answers_orRaise fun _ => answers_callFarTo _ _ s
  | ret | retIw => exact answers_returnNear _ s
  | retf | retfIw => exact answers_returnFar _ s
  | iret => exact answers_orRaise fun _ => answers_orRaise fun _ => answers_orRaise fun _ => answers_next _
  | xlat => exact answers_orRaise fun _ => answers_done _

/-! ## Software interrupts -/

/-- INT, INT3 and a taken INTO run `interrupt` on their vector; INTO without OF goes on. -/
theorem exec_interruptVector {i : Instr} {s : State} {n : Byte} (h : interruptVector i = some n) :
    exec i s = interrupt n s ∨ (i = .into ∧ s.flags.OF = false ∧ exec i s = done s) := by
  cases i <;> cases h
  case intIb | int3 => exact .inl rfl
  case into =>
    cases hof : s.flags.OF with
    | true => exact .inl (if_pos hof)
    | false => exact .inr ⟨rfl, rfl, if_neg (Bool.eq_false_iff.mp hof)⟩

theorem interrupt_claimed {n : Byte} {s : State} (h : n ∈ s.params.hostInt) : interrupt n s = hostService n s :=
  if_pos (List.contains_iff_mem.mpr h)

theorem interrupt_unclaimed {n : Byte} {s : State} (h : n ∉ s.params.hostInt) : interrupt n s = enterVector n s :=
  if_neg fun hc => h (List.contains_iff_mem.mp hc)

/-- The one way to end without a next state: a claimed vector's service blocks (60_exceptions.md R611, log entry 9). -/
theorem exec_blocks {i : Instr} {s : State} {c : Fault} (h : exec i s = .fault c) :
    ∃ v ∈ s.params.hostInt, c = .serviceBlocked v := by
  cases hv : interruptVector i with
  | none =>
    obtain ⟨t, ht⟩ := exec_answers i s hv
    rw [ht] at h; cases h
  | some n =>
    obtain hi | ⟨-, -, hi⟩ := exec_interruptVector (s := s) hv
    · rw [hi] at h
      by_cases hn : n ∈ s.params.hostInt
      · rw [interrupt_claimed hn, hostService] at h
        split at h
        case h_1 => cases h
        case h_2 => cases h
        case h_3 => cases h; exact ⟨n, hn, rfl⟩
      · obtain ⟨t, ht⟩ := answers_enterVector n s
        rw [interrupt_unclaimed hn, ht] at h; cases h
    · rw [hi] at h; cases h

end Sys2Proof.Machine
end

section
/-! The step: the instruction it runs, its decode and fetch faults, and what it leaves of the marks and the decoder state
(30_encoding.md R130, 60_exceptions.md R602-R604, 10_state.md R46). -/

namespace Sys2Proof.Machine

/-! ## Decode and fetch faults -/

/-- The fault of an instruction that is not decoded: `d` is what its bytes decode to. -/
def decodeFault (s : State) : Decoded → Option FaultInfo
  | .ok _ _ => none
  | .unhandled n => some (.unhandledOpcode (bytesSoFar s n))
  | .malformed n => some (.malformedInstruction (bytesSoFar s n))
  | .short n => some (fetchFault s n)

/-- The bytes of the instruction stay where they are while its prefixes are collected. -/
theorem decodeFault_prefix (s : State) (q : Prefix) (d : Decoded) :
    decodeFault ((s.fetched 1).setPre (s.pre.collect q)) d = decodeFault s d := by
  have hbytes (n : Nat) : bytesSoFar ((s.fetched 1).setPre (s.pre.collect q)) n = bytesSoFar s n :=
    fetchBytes_same (s := s) (t := (s.fetched 1).setPre _) rfl rfl rfl rfl 0 n
  have hfault (n : Nat) : fetchFault ((s.fetched 1).setPre (s.pre.collect q)) n = fetchFault s n := by
    rw [fetchFault, hbytes]; rfl
  cases d <;> simp only [decodeFault, hbytes, hfault]

theorem runUnits_decodeFault {n : Nat} {s : State} {c : FaultInfo}
    (h : decodeFault s (decodeUnits n s.pre (fetchWindow s) s.k) = some c) : runUnits exec n s = .next (faultState c s) := by
  induction n generalizing s with
  | zero => cases h; exact raise_nothing _ _ (fetchFault_partBytes ..)
  | succ n ih =>
    rw [runUnits_succ]
    rw [decodeUnits] at h
    cases hunit : decodeUnit s.pre (fetchWindow s) with
    | ok i m =>
      rw [hunit] at h
      cases hq : i.asPrefix with
      | none => simp only [hq] at h; cases h
      | some q =>
        obtain ⟨-, hlen, hone⟩ := decodeUnit_bounds _ _ _ _ hunit
        obtain rfl : m = 1 := hone (by simp [hq])
        simp only [hq, exec_prefix i q _ hq] at h ⊢
        rw [← fetchWindow_prefix s q hlen, ← decodeFault_prefix s q] at h
        exact ih h
    | unhandled m | malformed m => rw [hunit] at h; cases h; exact raise_nothing _ _ rfl
    | short m => rw [hunit] at h; cases h; exact raise_nothing _ _ (fetchFault_partBytes ..)

/-- What is not decoded faults, with nothing written. -/
theorem step_decodeFault {s : State} {c : FaultInfo} (hrun : s.running)
    (h : decodeFault s.beginInstr (decodeUnits maxLength {} (fetchWindow s.beginInstr) 0) = some c) :
    step s = .next (faultState c s) := by
  rw [step_running hrun, runUnits_decodeFault h]
  rfl

theorem fetchBytes_take (s : State) (j : Nat) {m n : Nat} (h : m ≤ n) : (fetchBytes s j n).take m = fetchBytes s j m := by
  induction m generalizing j n with
  | zero => rfl
  | succ m ih =>
    obtain ⟨n, rfl⟩ : ∃ l, n = l + 1 := ⟨n - 1, by omega⟩
    rw [fetchBytes, fetchBytes]
    split
    · rfl
    · rw [List.take_succ_cons, ih (j + 1) (by omega)]

theorem length_fetchWindow_le (s : State) : (fetchWindow s.beginInstr).length ≤ maxLength := fetchBytes_length_le ..

theorem bytesSoFar_eq_take {s : State} {n : Nat} (h : n ≤ maxLength) :
    bytesSoFar s.beginInstr n = (fetchWindow s.beginInstr).take n := (fetchBytes_take s.beginInstr 0 h).symm

/-- A decode fault is decided inside the bytes given. -/
theorem decodeUnits_refused_le {fuel : Nat} {p : Prefixes} {bs : List Byte} {k n : Nat}
    (h : decodeUnits fuel p bs k = .unhandled n ∨ decodeUnits fuel p bs k = .malformed n) : n ≤ k + bs.length := by
  induction fuel generalizing p bs k with
  | zero => exact h.elim nofun nofun
  | succ fuel ih =>
    have hunit := reencodes_decodeUnit p bs
    rw [decodeUnits] at h
    cases hd : decodeUnit p bs with
    | ok i m =>
      have := (decodeUnit_bounds p bs i m hd).2.1
      rw [hd] at h
      cases hq : i.asPrefix with
      | none => simp only [hq] at h; exact h.elim nofun nofun
      | some q =>
        simp only [hq] at h
        have := ih h
        rw [List.length_drop] at this
        omega
    | unhandled m =>
      rw [hd] at h hunit
      have : m ≤ 0 + bs.length := hunit
      obtain h | h := h <;> cases h
      omega
    | malformed m =>
      rw [hd] at h hunit
      have : m ≤ 0 + bs.length := hunit
      obtain h | h := h <;> cases h
      omega
    | short m => rw [hd] at h; exact h.elim nofun nofun

/-- Settles O13: the fault of the units that are read, by the decoder's answer. -/
theorem decodeFaultsLeaveState : Obligations.DecodeFaultsLeaveState := by
  intro s n hrun
  have hstep (c : FaultInfo) := step_decodeFault (c := c) hrun
  have hlen := length_fetchWindow_le s
  have hrefused {n : Nat} :=
    decodeUnits_refused_le (n := n) (fuel := maxLength) (p := {}) (bs := fetchWindow s.beginInstr) (k := 0)
  have hshort {n : Nat} := decodeUnits_short (n := n) (fuel := maxLength) (p := {}) (bs := fetchWindow s.beginInstr) (k := 0)
  simp only [decode, fetchWindow_take]
  cases hd : decodeUnits maxLength {} (fetchWindow s.beginInstr) 0 with
  | ok i m => exact ⟨nofun, nofun, nofun⟩
  | unhandled m =>
    have hm := hrefused (.inl hd)
    refine ⟨fun h => ?_, nofun, nofun⟩
    cases h
    rw [← bytesSoFar_eq_take (by omega)]
    exact hstep _ (by rw [hd]; rfl)
  | malformed m =>
    have hm := hrefused (.inr hd)
    refine ⟨nofun, fun h => ?_, nofun⟩
    cases h
    rw [← bytesSoFar_eq_take (by omega)]
    exact hstep _ (by rw [hd]; rfl)
  | short m =>
    have hm := hshort hd
    have hfault := hstep (fetchFault s.beginInstr m) (by rw [hd]; rfl)
    unfold fetchFault at hfault
    dsimp only
    by_cases hlong : maxLength ≤ m
    · rw [if_pos hlong] at hfault ⊢
      refine ⟨fun h => ?_, nofun, nofun⟩
      cases h
      rw [← bytesSoFar_eq_take (by omega)]
      exact hfault
    · rw [if_neg hlong] at hfault ⊢
      refine ⟨nofun, nofun, fun h => ?_⟩
      cases h
      exact hfault

/-! ## The instruction a step runs -/

/-- Settles O12: one step runs prefixes and instruction together. -/
theorem stepRunsPrefixed : Obligations.StepRunsPrefixed := by
  intro s i n hrun hdecode
  dsimp only
  rw [step_running hrun, (runUnits_decodeUnits maxLength s.beginInstr i n (decode_window hdecode)).1]
  simp [State.fetched, State.setPre, State.beginInstr]

/-- Settles O11: an instruction decoded as the first unit is run by the first round. -/
theorem stepRunsDecoded : Obligations.StepRunsDecoded := by
  intro s i m hrun hpre hunit
  rw [step_running hrun, maxLength, runUnits_succ, show s.beginInstr.pre = {} from rfl, hunit]
  simp [hpre, State.fetched, State.beginInstr]

/-- Settles O52. -/
theorem prefixUnits : Obligations.PrefixUnits := fun s =>
  ⟨exec_prefix .segEs (.seg .es) s rfl, exec_prefix .segCs (.seg .cs) s rfl, exec_prefix .segSs (.seg .ss) s rfl,
    exec_prefix .segDs (.seg .ds) s rfl, exec_prefix .segFs (.seg .fs) s rfl, exec_prefix .segGs (.seg .gs) s rfl,
    exec_prefix .opSize .opSize s rfl, exec_prefix .repE .repZ s rfl, exec_prefix .repNe .repNZ s rfl⟩

/-! ## How a step ends -/

/-- How the step from the running state `s` ends at `t`: its instruction completes, faults, or is HLT. -/
inductive StepEnds (s t : State) : Prop
  | completed (params : t.params = s.params) (halted : t.halted = false) (fault : t.fault = none) (mem : MemOk s → MemOk t)
  | faulted (h : Faulted s t)
  | halted (n : Nat) (h : decode (fetchWindow s.beginInstr) = .ok .hlt n) (params : t.params = s.params)
      (fault : t.fault = none) (mem : t.mem = s.mem)

theorem faulted_faultState (c : FaultInfo) (s : State) : Faulted s (faultState c s) :=
  ⟨⟨c, rfl⟩, rfl, rfl, rfl, rfl, rfl, fun h => ⟨h.wf, h.below⟩⟩

/-- `finish` clears the decoder state and changes nothing else. -/
theorem finish_eq_next {r : Result} {t : State} (h : finish r = .next t) : ∃ u, r = .next u ∧ t = u.endInstr := by
  cases r with
  | next u => cases h; exact ⟨u, rfl, rfl⟩
  | fault f => cases h
  | refused q => cases h

theorem stepEnds {s t : State} (h : step s = .next t) : StepEnds s t ∧ t.pre = {} ∧ t.k = 0 := by
  have hrun := running_of_next h
  obtain ⟨i, n, p, hdecode, hpre, hstep⟩ | ⟨c, hstep⟩ := step_cases s hrun
  · obtain ⟨u, hu, rfl⟩ := finish_eq_next (hstep.symm.trans h)
    refine ⟨?_, rfl, rfl⟩
    by_cases hhlt : i = .hlt
    · subst hhlt; cases hu
      exact .halted n hdecode rfl hrun.1 rfl
    · have hgood := exec_good i { s with pre := p, k := n } hpre hhlt
      rw [hu] at hgood
      obtain hkept | hfault := hgood
      · exact .completed hkept.params (hkept.halted.trans hrun.2) (hkept.fault.trans hrun.1)
          fun hm => ⟨(hkept.mem ⟨hm.wf, hm.below⟩).wf, (hkept.mem ⟨hm.wf, hm.below⟩).below⟩
      · exact .faulted ⟨hfault.record, hfault.ip, rfl, rfl, hfault.halted, hfault.params,
          fun hm => ⟨(hfault.mem ⟨hm.wf, hm.below⟩).wf, (hfault.mem ⟨hm.wf, hm.below⟩).below⟩⟩
  · cases hstep.symm.trans h
    exact ⟨.faulted (faulted_faultState c s), rfl, rfl⟩

/-- Settles O18. -/
theorem faultEntry : Obligations.FaultEntry := by
  intro s t r h hr
  obtain ⟨hends, hpre, hk⟩ := stepEnds h
  cases hends with
  | completed _ _ hfault | halted _ _ _ hfault => cases hr.symm.trans hfault
  | faulted hf =>
    obtain ⟨c, hc⟩ := hf.record
    cases hr.symm.trans hc
    exact ⟨rfl, rfl, hf.ip, hpre, hk, hf.halted.trans (running_of_next h).2⟩

/-- Settles O14. -/
theorem runStateMarks : Obligations.RunStateMarks := by
  intro s
  have hblocks (hrun : s.running) :
      (∃ t, step s = .next t) ∨ ∃ v ∈ s.params.hostInt, step s = .fault (.serviceBlocked v) := by
    obtain ⟨i, n, p, -, hpre, hstep⟩ | ⟨c, hstep⟩ := step_cases s hrun
    · rw [hstep]
      cases hexec : exec i { s with pre := p, k := n } with
      | next t => exact .inl ⟨_, rfl⟩
      | fault c =>
        obtain ⟨v, hv, rfl⟩ := exec_blocks hexec
        exact .inr ⟨v, hv, rfl⟩
      | refused q =>
        by_cases hhlt : i = .hlt
        · subst hhlt; cases hexec
        · have hgood := exec_good i { s with pre := p, k := n } hpre hhlt
          rw [hexec] at hgood
          exact hgood.elim
    · exact .inl ⟨_, hstep⟩
  refine ⟨fun hrun t h => hrun (running_of_next h), fun t h => (stepEnds h).2, fun t h hhalted => ?_,
    fun hrun hclaimed => ?_, hblocks⟩
  · cases (stepEnds h).1 with
    | completed _ hh => cases hhalted.symm.trans hh
    | faulted hf => cases (hhalted.symm.trans hf.halted).trans (running_of_next h).2
    | halted n hn => exact ⟨n, hn⟩
  · refine (hblocks hrun).resolve_right ?_
    rintro ⟨v, hv, -⟩
    rw [hclaimed] at hv
    cases hv

/-- Settles O15. -/
theorem stepKeepsInvariant : Obligations.StepKeepsInvariant := by
  intro s t hinv h
  have hmem : MemOk s := ⟨hinv.memWf, hinv.memBelow⟩
  obtain ⟨hends, hpre, hk⟩ := stepEnds h
  cases hends with
  | completed hparams hhalted _ ht =>
    exact ⟨⟨(ht hmem).wf, (ht hmem).below, hpre, hk, fun hh => absurd (hhalted.symm.trans hh) nofun⟩, hparams⟩
  | faulted hf =>
    have hrunning : t.halted = false := hf.halted.trans (running_of_next h).2
    exact ⟨⟨(hf.mem hmem).wf, (hf.mem hmem).below, hpre, hk, fun hh => absurd (hrunning.symm.trans hh) nofun⟩,
      hf.params⟩
  | halted _ _ hparams hfault ht =>
    exact ⟨⟨by rw [ht]; exact hmem.wf, by rw [ht, hparams]; exact hmem.below, hpre, hk, fun _ => hfault⟩, hparams⟩

/-! ## Reset -/

/-- Settles O16. -/
theorem resetInvariant : Obligations.ResetInvariant := ⟨⟨.nil, nofun⟩, nofun, rfl, rfl, nofun⟩

/-- Settles O17. -/
theorem resetState : Obligations.ResetState :=
  ⟨fun r => by cases r <;> rfl, fun r => by cases r <;> rfl, rfl, fun f => by cases f <;> rfl, rfl, fun _ => rfl, rfl, rfl,
    rfl⟩

end Sys2Proof.Machine
end

section
/-! The arithmetic instructions complete with the helper's result (40_alu_binary.md, 41_alu_unary.md, 42_muldiv.md,
43_shift_rotate.md R330). -/

namespace Sys2Proof.Machine

/-! ## IP after an instruction's writes -/

@[simp] theorem memStored_ip (w : Width) (p : Nat) (v : BitVec w.bits) (s : State) : (memStored w p v s).ip = s.ip := rfl

@[simp] theorem memStored_k (w : Width) (p : Nat) (v : BitVec w.bits) (s : State) : (memStored w p v s).k = s.k := rfl

@[simp] theorem stored_ip (w : Width) (op : Operand) (v : BitVec w.bits) (s : State) : (stored w op v s).ip = s.ip := by
  cases op <;> simp [stored]

@[simp] theorem stored_k (w : Width) (op : Operand) (v : BitVec w.bits) (s : State) : (stored w op v s).k = s.k := by
  cases op <;> simp [stored]

/-- The next offset is the one of the start: no write touches IP or the bytes fetched. -/
theorem done_eq {s t : State} (hip : t.ip = s.ip) (hk : t.k = s.k) : done t = .next (t.setIp s.ipNext) := by
  rw [done, State.ipNext, State.ipNext, hip, hk]

/-! ## Binary and unary operations -/

/-- Settles O26. -/
theorem binaryAluResult : Obligations.BinaryAluResult := by
  intro i s f hf hdst hsrc
  dsimp only
  rw [exec_binaryForm hf, binaryAlu_ok _ _ _ _ _ hdst hsrc]
  cases hop : f.op with
  | cmp => exact done_eq rfl rfl
  | _ => exact done_eq (stored_ip ..) (stored_k ..)

/-- Settles O27. -/
theorem testAndUnaryResult : Obligations.TestAndUnaryResult := by
  refine fun i s => ⟨fun f hf hdst hsrc => ?_, fun f hf hdst => ?_⟩
  · rw [exec_testForm hf, testAlu_ok _ _ _ _ hdst hsrc]
    exact done_eq rfl rfl
  · dsimp only
    rw [exec_unaryForm hf, unaryAlu_ok _ _ _ _ hdst]
    cases hop : f.op with
    | not => rw [BitVec.xor_allOnes]; exact done_eq (stored_ip ..) (stored_k ..)
    | _ => exact done_eq (stored_ip ..) (stored_k ..)

/-! ## Multiply -/

theorem extractLsb'_low_ofNat (n p : Nat) : (BitVec.ofNat (n + n) p).extractLsb' 0 n = BitVec.ofNat n p := by
  apply BitVec.eq_of_toNat_eq
  rw [BitVec.extractLsb'_toNat, BitVec.toNat_ofNat, BitVec.toNat_ofNat, Nat.shiftRight_zero, Nat.pow_add,
    Nat.mod_mul_right_mod]

theorem extractLsb'_high_ofNat (n p : Nat) : (BitVec.ofNat (n + n) p).extractLsb' n n = BitVec.ofNat n (p / 2 ^ n) := by
  apply BitVec.eq_of_toNat_eq
  rw [BitVec.extractLsb'_toNat, BitVec.toNat_ofNat, BitVec.toNat_ofNat, Nat.shiftRight_eq_div_pow, Nat.pow_add,
    Nat.mod_mul_right_div_self, Nat.mod_mod]

theorem int_two_pow (n : Nat) : (2 : Int) ^ n = ((2 ^ n : Nat) : Int) := (Int.natCast_pow 2 n).symm

theorem int_two_pow_pos (n : Nat) : 0 < ((2 ^ n : Nat) : Int) := Int.natCast_pos.mpr (Nat.two_pow_pos n)

/-- A product of 2n bits by its nonnegative representative. -/
theorem ofInt_eq_ofNat_emod (n : Nat) (p : Int) : BitVec.ofInt n p = BitVec.ofNat n (p % ((2 ^ n : Nat) : Int)).toNat := by
  apply BitVec.eq_of_toNat_eq
  rw [BitVec.toNat_ofInt, BitVec.toNat_ofNat, Nat.mod_eq_of_lt]
  exact (Int.toNat_lt (Int.emod_nonneg p (Int.ne_of_gt (int_two_pow_pos n)))).mpr (Int.emod_lt_of_pos p (int_two_pow_pos n))

theorem extractLsb'_low_ofInt (n : Nat) (p : Int) : (BitVec.ofInt (n + n) p).extractLsb' 0 n = BitVec.ofInt n p := by
  rw [ofInt_eq_ofNat_emod, extractLsb'_low_ofNat, ← BitVec.ofInt_natCast,
    Int.toNat_of_nonneg (Int.emod_nonneg p (Int.ne_of_gt (int_two_pow_pos (n + n))))]
  apply BitVec.eq_of_toNat_eq
  rw [BitVec.toNat_ofInt, BitVec.toNat_ofInt, Nat.pow_add, Int.natCast_mul, Int.emod_emod_of_dvd _ ⟨_, rfl⟩]

/-- A floor quotient by d from the remainder and the quotient by d * d. -/
theorem ediv_eq_emod_mul_self_ediv {d : Int} (hd : d ≠ 0) (p : Int) : p / d = p % (d * d) / d + d * (p / (d * d)) := by
  have hsplit : p % (d * d) + d * (d * (p / (d * d))) = p := by rw [← Int.mul_assoc, Int.emod_add_mul_ediv]
  rw [← Int.add_mul_ediv_left _ _ hd, hsplit]

theorem extractLsb'_high_ofInt (n : Nat) (p : Int) :
    (BitVec.ofInt (n + n) p).extractLsb' n n = BitVec.ofInt n (p / 2 ^ n) := by
  rw [ofInt_eq_ofNat_emod, extractLsb'_high_ofNat, ← BitVec.ofInt_natCast, Int.natCast_ediv,
    Int.toNat_of_nonneg (Int.emod_nonneg p (Int.ne_of_gt (int_two_pow_pos (n + n)))), int_two_pow,
    ediv_eq_emod_mul_self_ediv (Int.ne_of_gt (int_two_pow_pos n)) p, ← Int.natCast_mul, ← Nat.pow_add]
  apply BitVec.eq_of_toNat_eq
  rw [BitVec.toNat_ofInt, BitVec.toNat_ofInt, Int.add_mul_emod_self_left]

/-- The high half of a product is not zero exactly if it does not fit in the low half. -/
theorem high_ne_zero_iff {n : Nat} (a b : BitVec n) :
    (BitVec.ofNat n (a.toNat * b.toNat / 2 ^ n) != 0#n) = decide (2 ^ n ≤ a.toNat * b.toNat) := by
  have hlt : a.toNat * b.toNat / 2 ^ n < 2 ^ n :=
    Nat.div_lt_of_lt_mul (Nat.mul_lt_mul'' a.isLt b.isLt)
  have hiff : BitVec.ofNat n (a.toNat * b.toNat / 2 ^ n) ≠ 0#n ↔ 2 ^ n ≤ a.toNat * b.toNat := by
    rw [Ne, BitVec.toNat_eq, BitVec.toNat_ofNat, Nat.mod_eq_of_lt hlt, BitVec.toNat_ofNat, Nat.zero_mod,
      Nat.div_eq_zero_iff]
    have := Nat.two_pow_pos n
    omega
  rw [bne, ← decide_eq_decide.mpr hiff, decide_not]
  rfl

/-- Settles O28. -/
theorem multiplyResult : Obligations.MultiplyResult := by
  intro i s f hf hsrc
  dsimp only
  rw [exec_mulDivForm hf, mulDivMeaning]
  refine ⟨fun hop => ?_, fun hop => ?_⟩
  · rw [hop]
    simp only [mulOp, readOp_ok _ _ _ hsrc, orRaise_ok, extractLsb'_low_ofNat, extractLsb'_high_ofNat, high_ne_zero_iff]
    exact done_eq (by simp [writeAcc]) (by simp [writeAcc])
  · rw [hop]
    simp only [imulOp, readOp_ok _ _ _ hsrc, orRaise_ok, extractLsb'_low_ofInt, extractLsb'_high_ofInt]
    exact done_eq (by simp [writeAcc]) (by simp [writeAcc])

/-! ## Divide -/

theorem writeAcc_done (w : Width) (hi lo : BitVec w.bits) (s : State) :
    done (writeAcc w hi lo s) = .next ((writeAcc w hi lo s).setIp s.ipNext) :=
  done_eq (by simp [writeAcc]) (by simp [writeAcc])

/-- The two reasons for a DivideError of DIV (42_muldiv.md R302). -/
theorem divOp_eq {w : Width} {src : Operand} {s : State} (h : accessible w src s) :
    divOp w src s =
      if (valueOf w src s).toNat = 0 ∨ 2 ^ w.bits ≤ (dividend w s).toNat / (valueOf w src s).toNat then
        .next (faultState .divideError s)
      else
        .next ((writeAcc w (BitVec.ofNat w.bits ((dividend w s).toNat % (valueOf w src s).toNat))
          (BitVec.ofNat w.bits ((dividend w s).toNat / (valueOf w src s).toNat)) s).setIp s.ipNext) := by
  have := Nat.two_pow_pos w.bits
  simp only [divOp, readOp_ok _ _ _ h, orRaise_ok, writeAcc_done, raise_nothing .divideError s rfl]
  split
  case isTrue hzero => rw [if_pos (.inl hzero)]; rfl
  case isFalse hzero =>
    split
    case isTrue hbig => rw [if_pos (.inr (by omega))]; rfl
    case isFalse hbig => rw [if_neg (by omega)]

/-- The two reasons for a DivideError of IDIV (42_muldiv.md R303). -/
theorem idivOp_eq {w : Width} {src : Operand} {s : State} (h : accessible w src s) :
    idivOp w src s =
      if (valueOf w src s).toInt = 0 ∨ (dividend w s).toInt.tdiv (valueOf w src s).toInt < -(2 : Int) ^ (w.bits - 1) ∨
          (2 : Int) ^ (w.bits - 1) ≤ (dividend w s).toInt.tdiv (valueOf w src s).toInt then
        .next (faultState .divideError s)
      else
        .next ((writeAcc w (BitVec.ofInt w.bits ((dividend w s).toInt.tmod (valueOf w src s).toInt))
          (BitVec.ofInt w.bits ((dividend w s).toInt.tdiv (valueOf w src s).toInt)) s).setIp s.ipNext) := by
  simp only [idivOp, readOp_ok _ _ _ h, orRaise_ok, writeAcc_done, raise_nothing .divideError s rfl, signedOverflow,
    decide_eq_true_eq, Int.sub_one_lt_iff, Int.tmod_def, Int.mul_comm (valueOf w src s).toInt]
  split
  case isTrue hzero => rw [if_pos (.inl hzero)]; rfl
  case isFalse hzero =>
    split
    case isTrue hbig => rw [if_pos (.inr hbig)]; rfl
    case isFalse hbig => rw [if_neg (not_or.mpr ⟨hzero, hbig⟩)]

/-- Settles O29. -/
theorem divideResult : Obligations.DivideResult := by
  intro i s f hf hsrc
  dsimp only
  rw [exec_mulDivForm hf, mulDivMeaning]
  refine ⟨fun hop hzero hfits => ?_, fun hop hzero hlow hhigh => ?_⟩
  · rw [hop]
    exact (divOp_eq hsrc).trans (if_neg (not_or.mpr ⟨hzero, Nat.not_le.mpr hfits⟩))
  · rw [hop]
    exact (idivOp_eq hsrc).trans (if_neg (not_or.mpr ⟨hzero, not_or.mpr ⟨Int.not_lt.mpr hlow, Int.not_le.mpr
      (Int.lt_of_le_sub_one hhigh)⟩⟩))

/-- A next state that faults comes from the fault, where the alternative keeps the mark. -/
theorem faults_of_ite {c : Prop} [Decidable c] {s t u v : State}
    (h : (if c then Host.Outcome.next u else .next v : Result) = .next t)
    (hs : s.fault = none) (hv : v.fault = s.fault) (ht : t.fault ≠ none) : c := by
  split at h
  · assumption
  · cases h; exact absurd (hv.trans hs) ht

/-- Settles O30. -/
theorem divideErrors : Obligations.DivideErrors := by
  intro i s f hf hsrc
  dsimp only
  rw [exec_mulDivForm hf, mulDivMeaning]
  refine ⟨fun hop hbad => ?_, fun hop hbad => ?_, fun hop => ?_, fun hop => ?_⟩
  · rw [hop]; exact (divOp_eq hsrc).trans (if_pos hbad)
  · rw [hop]; exact (idivOp_eq hsrc).trans (if_pos hbad)
  · rw [hop]
    rintro ⟨hs, t, ht, hfault⟩
    exact faults_of_ite ((divOp_eq hsrc).symm.trans ht) hs (by simp [writeAcc]) hfault
  · rw [hop]
    rintro ⟨hs, t, ht, hfault⟩
    exact faults_of_ite ((idivOp_eq hsrc).symm.trans ht) hs (by simp [writeAcc]) hfault

/-! ## Shifts and rotates (43_shift_rotate.md R330) -/

/-- The flags of a shift or rotate with this result. -/
def ShiftOp.flags {n : Nat} (op : ShiftOp) (r : BitVec n) (cf of : Bool) (f : Flags) : Flags :=
  if op.isShift then ({ f with CF := cf, OF := of }).szp r else { f with CF := cf, OF := of }

theorem stored_draws (w : Width) (dst : Operand) (v : BitVec w.bits) (s : State) (d : Nat) :
    stored w dst v { s with draws := d } = { stored w dst v s with draws := d } := by
  cases dst with
  | reg r => cases w <;> rfl
  | _ => rfl

/-- The write of a shift's result from the state in which `d` free values are drawn. -/
theorem shiftWrite_ok (op : ShiftOp) {w : Width} {dst : Operand} {s : State} (h : accessible w dst s) (c : Nat)
    (r : BitVec w.bits) (cf of : Bool) (d : Nat) :
    ∃ v d', (c = 1 → v = of ∧ d' = d) ∧
      shiftWrite op w dst c r cf of { s with draws := d } =
        .next ((({ stored w dst r s with draws := d' }).setFlags (op.flags r cf v s.flags)).setIp s.ipNext) := by
  have hacc (e : Nat) : accessible w dst { s with draws := e } := by cases dst <;> exact h
  by_cases hc : c = 1
  · refine ⟨of, d, fun _ => ⟨rfl, rfl⟩, ?_⟩
    simp only [shiftWrite, shiftOverflow, if_pos hc, writeOp_ok _ _ _ _ (hacc d), orRaise_ok, stored_draws]
    exact done_eq (stored_ip ..) (stored_k ..)
  · refine ⟨Config.freeFlag d, d + 1, fun h => absurd h hc, ?_⟩
    simp only [shiftWrite, shiftOverflow, if_neg hc, State.draw, writeOp_ok _ _ _ _ (hacc (d + 1)), orRaise_ok,
      stored_draws]
    exact done_eq (stored_ip ..) (stored_k ..)

/-- Settles O32. -/
theorem shiftResult : Obligations.ShiftResult := by
  intro i s f hf hdst
  dsimp only
  rw [exec_shiftForm hf, shiftOp, readOp_ok _ _ _ hdst, orRaise_ok, shiftCount]
  refine ⟨fun hc => if_pos hc, fun hc hout => ?_, fun hc r cf of hout => ?_, fun hc hout => ?_⟩
  · simp only [if_neg hc, hout]; rfl
  · simp only [if_neg hc, hout]
    exact shiftWrite_ok f.op hdst _ r cf of s.draws
  · simp only [if_neg hc, hout]
    obtain ⟨v, d, -, h⟩ := shiftWrite_ok f.op hdst (f.count.toNat % 32) ((Config.freeBits s.draws).setWidth f.w.bits)
      (Config.freeFlag s.draws) false (s.draws + 1)
    exact ⟨_, _, v, d, h⟩

end Sys2Proof.Machine
end

section
/-! The values of the shifts and rotates (43_shift_rotate.md R331-R337): a rotate moves bit j to bit (j + c) mod w. -/

namespace Sys2Proof.Machine

/-! ## Rotates bit by bit -/

theorem add_mod_of_mod_lt {j c n : Nat} (h : j + c % n < n) : (j + c) % n = j + c % n := by
  rw [← Nat.add_mod_mod, Nat.mod_eq_of_lt h]

theorem add_mod_of_le_mod {j c n : Nat} (hj : j < n) (h : n ≤ j + c % n) : (j + c) % n = j + c % n - n := by
  have := Nat.mod_lt c (Nat.zero_lt_of_lt hj)
  rw [← Nat.add_mod_mod, Nat.mod_eq_sub_mod h, Nat.mod_eq_of_lt (by omega)]

theorem getLsbD_rotateLeft_add_mod {n : Nat} (x : BitVec n) (c : Nat) {j : Nat} (hj : j < n) :
    (x.rotateLeft c).getLsbD ((j + c) % n) = x.getLsbD j := by
  have := Nat.mod_lt c (Nat.zero_lt_of_lt hj)
  rw [BitVec.getLsbD_rotateLeft]
  by_cases h : j + c % n < n
  · rw [add_mod_of_mod_lt h]
    simp [show ¬ j + c % n < c % n by omega, h]
  · rw [add_mod_of_le_mod hj (by omega)]
    simp only [show j + c % n - n < c % n by omega, decide_true, cond_true]
    congr 1; omega

theorem getLsbD_rotateRight_eq {n : Nat} (x : BitVec n) (c : Nat) {j : Nat} (hj : j < n) :
    (x.rotateRight c).getLsbD j = x.getLsbD ((j + c) % n) := by
  have := Nat.mod_lt c (Nat.zero_lt_of_lt hj)
  rw [BitVec.getLsbD_rotateRight]
  by_cases h : j + c % n < n
  · rw [add_mod_of_mod_lt h]
    simp [show j < n - c % n by omega, Nat.add_comm]
  · rw [add_mod_of_le_mod hj (by omega)]
    simp only [show ¬ j < n - c % n by omega, hj, decide_false, decide_true, cond_false, Bool.true_and]
    congr 1; omega

/-- Every bit of a rotated value is one that was moved there. -/
theorem eq_rotateLeft_of_forall {n : Nat} {x y : BitVec n} {c : Nat}
    (h : ∀ j < n, y.getLsbD ((j + c) % n) = x.getLsbD j) : y = x.rotateLeft c := by
  apply BitVec.eq_of_getLsbD_eq
  intro i hi
  obtain ⟨j, hj, rfl⟩ : ∃ j < n, (j + c) % n = i := by
    have := Nat.mod_lt c (Nat.zero_lt_of_lt hi)
    by_cases hc : c % n ≤ i
    · exact ⟨i - c % n, by omega, by rw [add_mod_of_mod_lt] <;> omega⟩
    · exact ⟨i + n - c % n, by omega, by rw [add_mod_of_le_mod] <;> omega⟩
  rw [h j hj, getLsbD_rotateLeft_add_mod x c hj]

theorem rotateLeft_rotateLeft {n : Nat} (x : BitVec n) (c d : Nat) :
    (x.rotateLeft c).rotateLeft d = x.rotateLeft (c + d) := by
  refine eq_rotateLeft_of_forall fun j hj => ?_
  rw [← Nat.add_assoc, ← Nat.mod_add_mod, getLsbD_rotateLeft_add_mod _ _ (Nat.mod_lt _ (Nat.zero_lt_of_lt hj)),
    getLsbD_rotateLeft_add_mod x c hj]

theorem rotateRight_rotateRight {n : Nat} (x : BitVec n) (c d : Nat) :
    (x.rotateRight c).rotateRight d = x.rotateRight (c + d) := by
  apply BitVec.eq_of_getLsbD_eq
  intro j hj
  rw [getLsbD_rotateRight_eq _ _ hj, getLsbD_rotateRight_eq _ _ (Nat.mod_lt _ (Nat.zero_lt_of_lt hj)),
    getLsbD_rotateRight_eq _ _ hj, Nat.mod_add_mod, Nat.add_assoc, Nat.add_comm d c]

theorem rotateRight_rotateLeft {n : Nat} (x : BitVec n) (c : Nat) : (x.rotateLeft c).rotateRight c = x := by
  apply BitVec.eq_of_getLsbD_eq
  intro j hj
  rw [getLsbD_rotateRight_eq _ _ hj, getLsbD_rotateLeft_add_mod x c hj]

/-! ## Shifts -/

theorem shiftLeft_eq_ofNat {n : Nat} (a : BitVec n) (c : Nat) : a <<< c = BitVec.ofNat n (a.toNat * 2 ^ c) :=
  BitVec.eq_of_toNat_eq (by rw [BitVec.toNat_shiftLeft, BitVec.toNat_ofNat, Nat.shiftLeft_eq])

theorem ushiftRight_eq_ofNat {n : Nat} (a : BitVec n) (c : Nat) : a >>> c = BitVec.ofNat n (a.toNat / 2 ^ c) := by
  apply BitVec.eq_of_toNat_eq
  rw [BitVec.toNat_ushiftRight, BitVec.toNat_ofNat, Nat.shiftRight_eq_div_pow,
    Nat.mod_eq_of_lt (Nat.lt_of_le_of_lt (Nat.div_le_self _ _) a.isLt)]

theorem sshiftRight_eq_ofInt {n : Nat} (a : BitVec n) (c : Nat) : a.sshiftRight c = BitVec.ofInt n (a.toInt / 2 ^ c) := by
  rw [BitVec.sshiftRight_eq, Int.shiftRight_eq_div_pow, int_two_pow]

/-- Two spellings of one function on Bool. -/
theorem bne_eq_xor (a b : Bool) : (a != b) = (a ^^ b) := rfl

theorem ite_false_eq_and (p : Prop) [Decidable p] (b : Bool) : (if p then b else false) = (decide p && b) := by
  by_cases h : p <;> simp [h]

/-- Settles O33. -/
theorem shiftValues : Obligations.ShiftValues := by
  intro w mode a c cf _ _
  dsimp only
  refine ⟨?_, ?_, ?_, ⟨a.rotateLeft c, ?_, fun j hj => getLsbD_rotateLeft_add_mod a c hj⟩,
    ⟨a.rotateRight c, ?_, fun j hj => getLsbD_rotateRight_eq a c hj⟩⟩
  · simp only [ShiftOp.apply, ite_false_eq_and, bne_eq_xor, shiftLeft_eq_ofNat]
  · simp only [ShiftOp.apply, ite_false_eq_and, ushiftRight_eq_ofNat]
  · simp only [ShiftOp.apply, sshiftRight_eq_ofInt]
  · simp only [bne_eq_xor]; rfl
  · simp only [bne_eq_xor, BitVec.msb_eq_getLsbD_last]; rfl

/-! ## Rotates through carry -/

/-- The carry and the operand as one value. -/
def withCarry {n : Nat} (x : BitVec n × Bool) : BitVec (1 + n) := BitVec.ofBool x.2 ++ x.1

theorem getLsbD_withCarry {n : Nat} (x : BitVec n) (f : Bool) (j : Nat) :
    (withCarry (x, f)).getLsbD j = if j < n then x.getLsbD j else decide (j = n) && f := by
  rw [withCarry, BitVec.getLsbD_append, BitVec.getLsbD_ofBool]
  by_cases h : j < n
  · rw [if_pos h, if_pos h]
  · rw [if_neg h, if_neg h]; congr 2; simp only [eq_iff_iff]; omega

theorem withCarry_injective {n : Nat} {x y : BitVec n × Bool} (h : withCarry x = withCarry y) : x = y := by
  obtain ⟨x, f⟩ := x
  obtain ⟨y, g⟩ := y
  have hbit (j : Nat) := congrArg (BitVec.getLsbD · j) h
  simp only [getLsbD_withCarry] at hbit
  refine Prod.ext (BitVec.eq_of_getLsbD_eq fun j hj => ?_) ?_
  · simpa [hj] using hbit j
  · simpa using hbit n

theorem withCarry_rotateLeft_one {n : Nat} (hn : 0 < n) (x : BitVec n) (f : Bool) :
    withCarry ((x <<< 1) ||| (BitVec.ofBool f).setWidth n, x.msb) = (withCarry (x, f)).rotateLeft 1 := by
  refine eq_rotateLeft_of_forall fun j hj => ?_
  rw [getLsbD_withCarry, getLsbD_withCarry, BitVec.getLsbD_or, BitVec.getLsbD_shiftLeft, BitVec.getLsbD_setWidth,
    BitVec.getLsbD_ofBool, BitVec.msb_eq_getLsbD_last]
  by_cases hlast : j = n
  · subst hlast
    rw [Nat.add_comm j 1, Nat.mod_self]
    simp [hn]
  · rw [Nat.mod_eq_of_lt (by omega)]
    by_cases htop : j + 1 < n
    · simp [htop, show j < n by omega]
    · obtain rfl : n = j + 1 := by omega
      simp

theorem withCarry_rotateRight_one {n : Nat} (hn : 0 < n) (x : BitVec n) (f : Bool) :
    withCarry (((BitVec.ofBool f).setWidth n <<< (n - 1)) ||| (x >>> 1), x.getLsbD 0) =
      (withCarry (x, f)).rotateRight 1 := by
  apply BitVec.eq_of_getLsbD_eq
  intro j hj
  rw [getLsbD_rotateRight_eq _ _ hj, getLsbD_withCarry, getLsbD_withCarry, BitVec.getLsbD_or, BitVec.getLsbD_shiftLeft,
    BitVec.getLsbD_setWidth, BitVec.getLsbD_ofBool, BitVec.getLsbD_ushiftRight]
  by_cases hlast : j = n
  · subst hlast
    rw [Nat.add_comm j 1, Nat.mod_self]
    simp [hn]
  · rw [Nat.mod_eq_of_lt (by omega)]
    by_cases htop : j + 1 < n
    · simp [htop, show j < n by omega, show j < n - 1 by omega, Nat.add_comm 1 j]
    · obtain rfl : n = j + 1 := by omega
      simp [Nat.add_comm 1 j]

theorem withCarry_rotateCarryLeft {n : Nat} (hn : 0 < n) (c : Nat) (x : BitVec n) (f : Bool) :
    withCarry (rotateCarryLeft c x f) = (withCarry (x, f)).rotateLeft c := by
  induction c generalizing x f with
  | zero => exact eq_rotateLeft_of_forall fun j hj => by rw [Nat.add_zero, Nat.mod_eq_of_lt hj]; rfl
  | succ c ih => rw [rotateCarryLeft, ih, withCarry_rotateLeft_one hn, rotateLeft_rotateLeft, Nat.add_comm 1 c]

theorem withCarry_rotateCarryRight {n : Nat} (hn : 0 < n) (c : Nat) (x : BitVec n) (f : Bool) :
    withCarry (rotateCarryRight c x f) = (withCarry (x, f)).rotateRight c := by
  induction c generalizing x f with
  | zero =>
    refine BitVec.eq_of_getLsbD_eq fun j hj => ?_
    rw [getLsbD_rotateRight_eq _ _ hj, Nat.add_zero, Nat.mod_eq_of_lt hj]; rfl
  | succ c ih => rw [rotateCarryRight, ih, withCarry_rotateRight_one hn, rotateRight_rotateRight, Nat.add_comm 1 c]

/-- The two rotates through carry undo each other. -/
theorem rotateCarryRight_rotateCarryLeft {n : Nat} (hn : 0 < n) (c : Nat) (x : BitVec n) (f : Bool) :
    rotateCarryRight c (rotateCarryLeft c x f).1 (rotateCarryLeft c x f).2 = (x, f) :=
  withCarry_injective (by
    rw [withCarry_rotateCarryRight hn, Prod.eta, withCarry_rotateCarryLeft hn, rotateRight_rotateLeft])

/-- Settles O34: both rotates through carry rotate `withCarry`. -/
theorem carryRotates : Obligations.CarryRotates := by
  intro w a c cf _ _
  have hn : 0 < w.bits := by cases w <;> decide
  dsimp only
  rw [show (if w.bits = 32 then c else c % (w.bits + 1)) = carryCount w.bits c from rfl]
  refine ⟨fun hc mode => ?_, fun hc => ?_, fun hc => ?_, fun hc mode => ?_⟩
  · exact ⟨if_pos hc, if_pos hc⟩
  · refine ⟨_, _, withCarry_rotateCarryLeft hn (carryCount w.bits c) a cf, ?_, fun hone => ?_, ?_⟩
    · simp [ShiftOp.apply, hc, bne_eq_xor]
    · simp [ShiftOp.apply, hone, bne_eq_xor]
    · simp [ShiftOp.apply, hc, rotateCarryRight_rotateCarryLeft hn]
  · simp [ShiftOp.apply, hc, show carryCount w.bits c ≠ 0 by omega]
  · refine ⟨_, _, withCarry_rotateCarryRight hn (carryCount w.bits c) a cf, ?_⟩
    simp [ShiftOp.apply, hc, bne_eq_xor, BitVec.msb_eq_getLsbD_last]

end Sys2Proof.Machine
end

section
/-! The stack operations, control transfer and software interrupts complete (44_flag_ops.md R381-R384,
45_control_transfer.md, 60_exceptions.md R610-R612). -/

namespace Sys2Proof.Machine

/-! ## Popping words -/

/-- One word popped, the memory access taken as given. -/
def popped (s : State) : State := writeReg .w16 .sp (s.sp + 2#16) s

@[simp] theorem popped_sreg (s : State) : (popped s).sreg = s.sreg := by simp [popped]

@[simp] theorem popped_params (s : State) : (popped s).params = s.params := by simp [popped]

@[simp] theorem popped_mem (s : State) : (popped s).mem = s.mem := by simp [popped]

@[simp] theorem popped_flags (s : State) : (popped s).flags = s.flags := by simp [popped]

@[simp] theorem popped_ip (s : State) : (popped s).ip = s.ip := by simp [popped]

@[simp] theorem popped_k (s : State) : (popped s).k = s.k := by simp [popped]

@[simp] theorem sp_popped (s : State) : (popped s).sp = s.sp + 2#16 := by simp [popped]

@[simp] theorem inMemory_popped (s : State) (p n : Nat) : inMemory p n (popped s) ↔ inMemory p n s := by simp [inMemory]

@[simp] theorem wordAt_popped (s : State) (p : Nat) : wordAt (popped s) p = wordAt s p := by simp [wordAt, memValue]

/-- A further pop goes one word above. -/
@[simp] theorem popAddr_popped (s : State) (j : Nat) : popAddr (popped s) j = popAddr s (j + 1) := by
  simp only [popAddr, popped_sreg, sp_popped]
  congr 1
  apply BitVec.eq_of_toNat_eq
  simp only [BitVec.toNat_add, BitVec.toNat_ofNat]
  omega

theorem pop16_popped {s : State} (h : inMemory (popAddr s 0) 2 s) : pop16 s = .ok (wordAt s (popAddr s 0), popped s) :=
  pop16_ok s h

theorem writeReg_sp_popped (s : State) (v : Word) : writeReg .w16 .sp v (popped s) = writeReg .w16 .sp v s :=
  writeReg_writeReg_w16 ..

/-! ## Flag transfers -/

/-- Settles O36. -/
theorem flagTransfers : Obligations.FlagTransfers := by
  refine fun s => ⟨done_eq (by simp) (by simp), done_eq rfl rfl, fun h => ?_, fun h => ?_⟩
  · exact (pushValue_ok _ s h).trans (done_eq (pushed_ip ..) (pushed_k ..))
  · show popFlags s = _
    rw [popFlags, pop16_popped h, orRaise_ok]
    exact done_eq (popped_ip s) (popped_k s)

/-! ## Jumps -/

theorem jumpIf_spec {s t : State} {b : Bool} {c : Prop} (d : Byte) (hb : b = true ↔ c) (ht : t.ipNext = s.ipNext) :
    (c → jumpIf b d t = .next (t.setIp (s.ipNext + d.signExtend 16))) ∧
      (¬ c → jumpIf b d t = .next (t.setIp s.ipNext)) := by
  rw [← ht]
  exact ⟨fun hc => if_pos (hb.mpr hc), fun hc => if_neg fun h => hc (hb.mp h)⟩

theorem ipNext_writeReg (w : Width) (r : Reg) (v : BitVec w.bits) (s : State) : (writeReg w r v s).ipNext = s.ipNext := by
  simp [State.ipNext]

theorem loopIf_spec {s : State} {b : Bool} {c : Prop} (d : Byte) (hb : b = true ↔ c) :
    let cx := readReg .w16 .cx s
    let u := writeReg .w16 .cx (cx - 1#16) s
    (cx ≠ 1#16 ∧ c → loopIf b d s = .next (u.setIp (s.ipNext + d.signExtend 16))) ∧
      (¬ (cx ≠ 1#16 ∧ c) → loopIf b d s = .next (u.setIp s.ipNext)) := by
  refine jumpIf_spec d ?_ (ipNext_writeReg ..)
  rw [Bool.and_eq_true, bne_iff_ne, hb, Ne, BitVec.sub_eq_iff_eq_add]
  rfl

/-- Settles O37. -/
theorem conditionalJumps : Obligations.ConditionalJumps := by
  intro s d
  have hjump {b : Bool} {c : Prop} (hb : b = true ↔ c) := jumpIf_spec (s := s) (t := s) d hb rfl
  refine ⟨hjump .rfl, hjump (by simp [Cond.holds]), hjump .rfl, hjump (by simp [Cond.holds]), hjump .rfl,
    hjump (by simp [Cond.holds]), hjump (by simp [Cond.holds]), hjump (by simp [Cond.holds]), hjump .rfl,
    hjump (by simp [Cond.holds]), hjump .rfl, hjump (by simp [Cond.holds]), hjump (by simp [Cond.holds]),
    hjump (by simp [Cond.holds]), hjump (by simp [Cond.holds]), hjump (by simp [Cond.holds]), hjump (by simp), ?_, ?_, ?_⟩
  · have hloop := loopIf_spec (s := s) (c := True) d (b := true) (by simp)
    simp only [and_true] at hloop
    exact hloop
  · exact loopIf_spec d .rfl
  · exact loopIf_spec d (by simp)

theorem readFarPointer_ok {w : Width} {seg : SReg} {off : Word} {s : State} (hoff : inMemory (s.addr seg off) w.bytes s)
    (hsel : inMemory (s.addr seg (off + BitVec.ofNat 16 w.bytes)) 2 s) :
    readFarPointer w seg off s =
      .ok (memValue w (s.addr seg off) s, wordAt s (s.addr seg (off + BitVec.ofNat 16 w.bytes))) := by
  rw [readFarPointer, memRead_ok w _ s hoff, memRead_ok .w16 _ s hsel]
  rfl

/-- Settles O39. -/
theorem jumpsAndHalt : Obligations.JumpsAndHalt := by
  refine fun s d8 d16 sel off e m => ⟨rfl, rfl, rfl, fun h => ?_, fun hoff hsel => ?_, rfl⟩
  · show jumpIndirect _ s = _
    rw [jumpIndirect, readOp_ok _ _ s h, orRaise_ok]
    rfl
  · show jumpFarIndirect m s = _
    rw [jumpFarIndirect, readFarPointer_ok (w := .w16) hoff hsel, orRaise_ok]
    rfl

/-! ## Calls and returns -/

theorem callNear_ok {s : State} (target : Word) (h : inMemory (pushAddr s 1) 2 s) :
    callNear target s = .next ((pushed s.ipNext s).setIp target) := by
  rw [callNear, push16_ok _ s h, orRaise_ok]
  rfl

theorem callFarTo_ok {s : State} (sel off : Word) (h1 : inMemory (pushAddr s 1) 2 s) (h2 : inMemory (pushAddr s 2) 2 s) :
    callFarTo sel off s = .next (((pushed s.ipNext (pushed s.sreg.cs s)).setSreg .cs sel).setIp off) := by
  rw [callFarTo, push16_ok _ s h1, orRaise_ok, push16_ok _ _ (by simpa using h2), orRaise_ok]
  rfl

/-- Settles O40. -/
theorem calls : Obligations.Calls := by
  refine fun s d sel off e m h1 => ⟨callNear_ok _ h1, fun hop => ?_, fun h2 => callFarTo_ok sel off h1 h2,
    fun h2 hoff hsel => ?_⟩
  · show callIndirect _ s = _
    rw [callIndirect, readOp_ok _ _ s hop, orRaise_ok]
    exact callNear_ok _ h1
  · show callFarIndirect m s = _
    rw [callFarIndirect, readFarPointer_ok (w := .w16) hoff hsel, orRaise_ok]
    exact callFarTo_ok _ _ h1 h2

theorem returnNear_ok {s : State} (n : Word) (h : inMemory (popAddr s 0) 2 s) :
    returnNear n s = .next ((writeReg .w16 .sp (s.sp + (2#16 + n)) s).setIp (wordAt s (popAddr s 0))) := by
  rw [returnNear, pop16_popped h, orRaise_ok]
  simp only [jumpTo, releaseStack, sp_popped, writeReg_sp_popped, BitVec.add_assoc]

theorem returnFar_ok {s : State} (n : Word) (h0 : inMemory (popAddr s 0) 2 s) (h1 : inMemory (popAddr s 1) 2 s) :
    returnFar n s = .next (((writeReg .w16 .sp (s.sp + (4#16 + n)) s).setSreg .cs (wordAt s (popAddr s 1))).setIp
      (wordAt s (popAddr s 0))) := by
  simp only [returnFar, pop16_popped h0, orRaise_ok]
  rw [pop16_popped (by simpa using h1)]
  simp only [orRaise_ok, jumpFar, releaseStack, sp_popped, writeReg_sp_popped, BitVec.add_assoc, wordAt_popped, popAddr_popped]
  rw [← BitVec.add_assoc 2#16 2#16 n]
  rfl

theorem interruptReturn_ok {s : State} (h0 : inMemory (popAddr s 0) 2 s) (h1 : inMemory (popAddr s 1) 2 s)
    (h2 : inMemory (popAddr s 2) 2 s) :
    interruptReturn s = .next ((((writeReg .w16 .sp (s.sp + 6#16) s).setSreg .cs (wordAt s (popAddr s 1))).setIp
      (wordAt s (popAddr s 0))).setFlags (Flags.ofImage (wordAt s (popAddr s 2)))) := by
  have hsp : popped (popped (popped s)) = writeReg .w16 .sp (s.sp + 6#16) s := by
    show writeReg .w16 .sp ((popped (popped s)).sp + 2#16) (popped (popped s)) = _
    simp only [sp_popped, writeReg_sp_popped, BitVec.add_assoc]
    rfl
  simp only [interruptReturn, pop16_popped h0, orRaise_ok]
  rw [pop16_popped (by simpa using h1)]
  simp only [orRaise_ok]
  rw [pop16_popped (by simpa using h2), hsp]
  simp only [orRaise_ok, wordAt_popped, popAddr_popped]
  rfl

/-- Settles O41. -/
theorem returns : Obligations.Returns := by
  intro s n h0
  have hzero (x : Word) : x + 0#16 = x := BitVec.add_zero x
  refine ⟨?_, returnNear_ok n h0, fun h1 => ⟨?_, returnFar_ok n h0 h1⟩, fun h1 h2 => interruptReturn_ok h0 h1 h2⟩
  · rw [← hzero 2#16]; exact returnNear_ok 0#16 h0
  · rw [← hzero 4#16]; exact returnFar_ok 0#16 h0 h1

/-! ## Entering a handler -/

/-- The stack a handler finds: FLAGS, CS and IP_next pushed (60_exceptions.md R610). -/
def handlerStack (s : State) : State := pushed s.ipNext (pushed s.sreg.cs (pushed s.flags.image s))

@[simp] theorem handlerStack_params (s : State) : (handlerStack s).params = s.params := by simp [handlerStack]

@[simp] theorem handlerStack_sreg (s : State) : (handlerStack s).sreg = s.sreg := by simp [handlerStack]

/-- The handler's first state. -/
def handlerState (n : Byte) (s : State) : State :=
  (((handlerStack s).setFlags { s.flags with IF := false, TF := false }).setIp
    (wordAt (handlerStack s) (4 * n.toNat))).setSreg .cs (wordAt (handlerStack s) (4 * n.toNat + 2))

theorem pushed_setFlags (v : Word) (f : Flags) (s : State) : pushed v (s.setFlags f) = (pushed v s).setFlags f := rfl

theorem pushAddr_setFlags (f : Flags) (s : State) (j : Nat) : pushAddr (s.setFlags f) j = pushAddr s j := rfl

/-- Where the vector table is entered, all five accesses were inside memory. -/
theorem enterVector_ok {n : Byte} {s : State} (h1 : inMemory (pushAddr s 1) 2 s) (h2 : inMemory (pushAddr s 2) 2 s)
    (h3 : inMemory (pushAddr s 3) 2 s) (hoff : inMemory (4 * n.toNat) 2 s) (hseg : inMemory (4 * n.toNat + 2) 2 s) :
    enterVector n s = .next (handlerState n s) := by
  have hvector (p : Nat) (hp : inMemory p 2 s) (f : Flags) :
      memRead .w16 p ((handlerStack s).setFlags f) = .ok (wordAt (handlerStack s) p) :=
    memRead_ok .w16 p _ (by simpa [inMemory, Width.bytes] using hp)
  simp only [enterVector, push16_ok _ s h1, orRaise_ok, pushed_flags]
  rw [push16_ok _ _ (by simpa [pushAddr_setFlags] using h2), orRaise_ok,
    push16_ok _ _ (by simpa [pushAddr_setFlags] using h3), orRaise_ok]
  simp only [pushed_setFlags]
  rw [← handlerStack, hvector _ hoff, orRaise_ok, hvector _ hseg, orRaise_ok]
  rfl

/-- INT, INT3 and a taken INTO. -/
theorem exec_interrupt_taken {i : Instr} {s : State} {n : Byte} (h : interruptVector i = some n)
    (hof : i = .into → s.flags.OF = true) : exec i s = interrupt n s :=
  (exec_interruptVector h).resolve_right fun ⟨hi, hnone, _⟩ => nomatch (hof hi).symm.trans hnone

/-- Settles O42. -/
theorem softwareInterruptEntry : Obligations.SoftwareInterruptEntry := by
  refine ⟨fun s hof => if_neg (Bool.eq_false_iff.mp hof), fun s n hn h1 h2 h3 hvector => ?_⟩
  have hoff : inMemory (4 * n.toNat) 2 s := by simp only [inMemory] at hvector ⊢; omega
  have hseg : inMemory (4 * n.toNat + 2) 2 s := hvector
  have henter : interrupt n s = .next (handlerState n s) :=
    (interrupt_unclaimed hn).trans (enterVector_ok h1 h2 h3 hoff hseg)
  refine ⟨henter, ?_, ?_⟩
  · rintro rfl; exact henter
  · rintro rfl hof; exact (exec_interrupt_taken rfl fun _ => hof).trans henter

/-! ## Returning from a handler -/

theorem memValue_memStored_self {w : Width} {p : Nat} {v : BitVec w.bits} {s : State} (h : Memory.wf s.mem) :
    memValue w p (memStored w p v s) = v := by
  apply BitVec.eq_of_toNat_eq
  rw [memValue, memStored, State.setMem_mem, Memory.load_store _ _ _ _ h, BitVec.toNat_ofNat, ← bits_eq, Nat.mod_mod,
    Nat.mod_eq_of_lt v.isLt]

theorem memValue_memStored_disjoint {w x : Width} {p q : Nat} {v : BitVec w.bits} {s : State}
    (h : p + w.bytes ≤ q ∨ q + x.bytes ≤ p) : memValue x q (memStored w p v s) = memValue x q s := by
  rw [memValue, memStored, State.setMem_mem,
    Memory.load_congr _ _ _ _ fun a h1 h2 => Memory.read_store_outside _ _ _ _ _ (by omega)]
  rfl

theorem wordAt_pushed (v : Word) (s : State) (q : Nat) :
    wordAt (pushed v s) q = memValue .w16 q (memStored .w16 (pushAddr s 1) v s) := by
  simp [wordAt, memValue, pushed]

theorem wordAt_pushed_self {v : Word} {s : State} (h : Memory.wf s.mem) : wordAt (pushed v s) (pushAddr s 1) = v := by
  rw [wordAt_pushed, memValue_memStored_self h]

theorem wordAt_pushed_disjoint {v : Word} {s : State} {q : Nat}
    (h : pushAddr s 1 + 2 ≤ q ∨ q + 2 ≤ pushAddr s 1) : wordAt (pushed v s) q = wordAt s q := by
  rw [wordAt_pushed, memValue_memStored_disjoint h]
  rfl

theorem pushed_wf {v : Word} {s : State} (h : Memory.wf s.mem) : Memory.wf (pushed v s).mem := by
  rw [pushed_mem]; exact Memory.store_wf _ _ _ _ h

/-- The words pushed one after the other do not overlap, also where SP wraps. -/
theorem pushAddr_disjoint (s : State) {j l : Nat} (hjl : j < l) (hl : l ≤ 3) :
    pushAddr s l + 2 ≤ pushAddr s j ∨ pushAddr s j + 2 ≤ pushAddr s l := by
  simp only [pushAddr, phys, BitVec.toNat_sub, BitVec.toNat_ofNat]
  omega

/-- The words a handler finds on its stack. -/
theorem wordAt_handlerStack {s : State} (h : Memory.wf s.mem) :
    wordAt (handlerStack s) (pushAddr s 3) = s.ipNext ∧ wordAt (handlerStack s) (pushAddr s 2) = s.sreg.cs ∧
      wordAt (handlerStack s) (pushAddr s 1) = s.flags.image := by
  have hthird : pushAddr (pushed s.sreg.cs (pushed s.flags.image s)) 1 = pushAddr s 3 := by simp
  have hsecond : pushAddr (pushed s.flags.image s) 1 = pushAddr s 2 := by simp
  refine ⟨?_, ?_, ?_⟩
  · rw [handlerStack, ← hthird, wordAt_pushed_self (pushed_wf (pushed_wf h))]
  · rw [handlerStack, wordAt_pushed_disjoint (by rw [hthird]; exact pushAddr_disjoint s (by decide) (by decide)), ← hsecond,
      wordAt_pushed_self (pushed_wf h)]
  · rw [handlerStack, wordAt_pushed_disjoint (by rw [hthird]; exact pushAddr_disjoint s (by decide) (by decide)),
      wordAt_pushed_disjoint (by rw [hsecond]; exact pushAddr_disjoint s (by decide) (by decide)), wordAt_pushed_self h]

/-- A handler that is entered without a fault is entered in its first state. -/
theorem enterVector_inv {n : Byte} {s t : State} (h : enterVector n s = .next t) (hf : t.fault = none) :
    (inMemory (pushAddr s 1) 2 s ∧ inMemory (pushAddr s 2) 2 s ∧ inMemory (pushAddr s 3) 2 s) ∧ t = handlerState n s := by
  obtain ⟨s1, hpush1, h'⟩ := orRaise_unmarked h hf
  obtain ⟨h1, rfl⟩ := push16_inv _ _ _ hpush1
  obtain ⟨s2, hpush2, h'⟩ := orRaise_unmarked h' hf
  obtain ⟨h2, rfl⟩ := push16_inv _ _ _ hpush2
  obtain ⟨s3, hpush3, h'⟩ := orRaise_unmarked h' hf
  obtain ⟨h3, rfl⟩ := push16_inv _ _ _ hpush3
  obtain ⟨off, hread, h'⟩ := orRaise_unmarked h' hf
  obtain ⟨hoff, -⟩ := memRead_inv _ _ _ _ hread
  obtain ⟨seg, hread', -⟩ := orRaise_unmarked h' hf
  obtain ⟨hseg, -⟩ := memRead_inv _ _ _ _ hread'
  simp only [pushAddr_setFlags, pushAddr_pushed, inMemory, State.setFlags_params, pushed_params,
    Width.bytes] at h2 h3 hoff hseg
  rw [enterVector_ok h1 h2 h3 hoff hseg] at h
  cases h
  exact ⟨⟨h1, h2, h3⟩, rfl⟩

@[simp] theorem sp_handlerStack (s : State) : (handlerStack s).sp = s.sp - 6#16 := by
  simp only [handlerStack, sp_pushed, BitVec.sub_sub]
  rfl

/-- The words a handler pops are those pushed, in the other order. -/
theorem popAddr_handlerState (n : Byte) (s : State) {j : Nat} (hj : j ≤ 2) :
    popAddr (handlerState n s) j = pushAddr s (3 - j) := by
  have hsp : (handlerState n s).sp = s.sp - 6#16 := sp_handlerStack s
  have hss : (handlerState n s).sreg.ss = s.sreg.ss := by simp [handlerState, SegRegs.set]
  simp only [popAddr, pushAddr, hsp, hss, phys]
  congr 2
  bv_omega

/-- A push changes no register but SP. -/
theorem gpr_set16_sp_pushed (v x : Word) (s : State) : (pushed v s).gpr.set16 .sp x = s.gpr.set16 .sp x :=
  GPR.set16_set16 s.gpr .sp x (s.sp - 2#16)

/-- Settles O43: the handler's stack holds what IRET pops. -/
theorem interruptReturnRoundTrip : Obligations.InterruptReturnRoundTrip := by
  intro i s t n hi hof hwf _ hn hexec hf
  rw [exec_interrupt_taken hi hof, interrupt_unclaimed hn] at hexec
  obtain ⟨⟨h1, h2, h3⟩, rfl⟩ := enterVector_inv hexec hf
  obtain ⟨hip, hcs, himage⟩ := wordAt_handlerStack hwf
  have hmem (p : Nat) : inMemory p 2 (handlerState n s) ↔ inMemory p 2 s := by simp [handlerState, inMemory]
  have hword (p : Nat) : wordAt (handlerState n s) p = wordAt (handlerStack s) p := rfl
  have hreturn := interruptReturn_ok (s := handlerState n s)
    (by rw [popAddr_handlerState n s (by decide), hmem]; exact h3)
    (by rw [popAddr_handlerState n s (by decide), hmem]; exact h2)
    (by rw [popAddr_handlerState n s (by decide), hmem]; exact h1)
  rw [popAddr_handlerState n s (by decide), popAddr_handlerState n s (by decide), popAddr_handlerState n s (by decide),
    hword, hword, hword, hip, hcs, himage, Flags.ofImage_image] at hreturn
  refine ⟨_, hreturn, rfl, ?_, rfl, ?_, ?_⟩
  · simp [handlerState, SegRegs.set]
  · rw [State.setFlags_gpr, State.setIp_gpr, State.setSreg_gpr,
      show (handlerState n s).sp = s.sp - 6#16 from sp_handlerStack s, BitVec.sub_add_cancel]
    show (handlerStack s).gpr.set16 .sp s.sp = s.gpr
    rw [handlerStack, gpr_set16_sp_pushed, gpr_set16_sp_pushed, gpr_set16_sp_pushed]
    exact GPR.set16_get16 s.gpr .sp
  · simp

/-! ## Host services -/

/-- Settles O44. -/
theorem hostServices : Obligations.HostServices := by
  intro i s n hi hn hof
  dsimp only
  rw [exec_interrupt_taken hi hof, interrupt_claimed hn, hostService]
  refine ⟨fun u hu => ?_, fun rec hrec => ?_, fun hblocks => ?_⟩
  · have hdone : Config.hostService s.draws n (s.setIp s.ipNext).toService = .done u := hu
    rw [hdone]; rfl
  · have hfailed : Config.hostService s.draws n (s.setIp s.ipNext).toService = .failed rec := hrec
    rw [hfailed]; exact raise_nothing _ _ rfl
  · have hblocked : Config.hostService s.draws n (s.setIp s.ipNext).toService = .blocks := hblocks
    rw [hblocked]

end Sys2Proof.Machine
end

section
/-! The data transfers complete with the value transferred (47_data_transfer.md R490-R526). -/

namespace Sys2Proof.Machine

/-- Settles O49. -/
theorem moveAndExchangeResult : Obligations.MoveAndExchangeResult := by
  refine fun i s => ⟨fun f hf hdst hsrc => ?_, fun f hf hdst => ?_⟩
  · rw [exec_moveForm hf, moveOp_ok _ _ _ _ hdst hsrc]
    exact done_eq (stored_ip ..) (stored_k ..)
  · obtain ⟨r, hr⟩ := exchangeForm_src hf
    have hreg (u : State) : accessible f.w f.src u := by rw [hr]; trivial
    rw [exec_exchangeForm hf, exchangeOp, readOp_ok _ _ _ hdst, orRaise_ok, readOp_ok _ _ _ (hreg s), orRaise_ok,
      writeOp_ok _ _ _ _ hdst, orRaise_ok, writeOp_ok _ _ _ _ (hreg _), orRaise_ok]
    exact done_eq ((stored_ip ..).trans (stored_ip ..)) ((stored_k ..).trans (stored_k ..))

/-- Settles O50. -/
theorem addressLoads : Obligations.AddressLoads := by
  refine fun i s => ⟨fun o => rfl, fun o g m => ?_, fun f hf hoff hsel => ?_, fun ovr h => ?_⟩
  · exact done_eq (s := s) (t := writeReg o.width g _ s) (by simp) (by simp)
  · rw [exec_farLoadForm s hf, loadFarPointer, readFarPointer_ok hoff hsel, orRaise_ok]
    exact done_eq (by simp) (by simp)
  · show translateByte ovr s = _
    rw [translateByte, memRead_ok .w8 _ s h, orRaise_ok]
    exact done_eq (by simp) (by simp)

theorem accessible_popped (w : Width) (op : Operand) (s : State) : accessible w op (popped s) ↔ accessible w op s := by
  cases op <;> simp [accessible, State.addr]

theorem stored_popped_sp (v : Word) (s : State) : (stored .w16 (.reg .sp) v (popped s)).sp = v :=
  sp_writeReg_sp v (popped s)

/-- Settles O51. -/
theorem pushAndPopResult : Obligations.PushAndPopResult := by
  refine fun i s op => ⟨fun hf hop hsp => ⟨?_, sp_pushed .., fun hwf => wordAt_pushed_self hwf⟩, fun hf hsp hop => ?_⟩
  · rw [exec_pushForm hf, pushOperand, readOp_ok _ _ _ hop, orRaise_ok, pushValue_ok _ _ hsp]
    exact done_eq (pushed_ip ..) (pushed_k ..)
  · have hexec : exec i s = .next ((stored .w16 op (wordAt s (popAddr s 0)) (popped s)).setIp s.ipNext) := by
      rw [exec_popForm hf, popOperand, pop16_popped hsp, orRaise_ok]
      simp only [writeOp_ok _ _ _ _ ((accessible_popped .w16 op s).mpr hop), orRaise_ok]
      exact done_eq ((stored_ip ..).trans (popped_ip s)) ((stored_k ..).trans (popped_k s))
    exact ⟨hexec, by rintro rfl; exact ⟨_, hexec, stored_popped_sp ..⟩⟩

end Sys2Proof.Machine
end

section
/-! The string instructions, one iteration and the loop of a repetition (46_string.md R460-R470). -/

namespace Sys2Proof.Machine

/-! ## One iteration -/

theorem stringDelta_eq (w : Width) (s : State) : stringDelta w s.flags = elementStep w s := by
  rw [stringDelta, elementStep, BitVec.zero_sub]

/-- SI moved by one element. -/
def stepSource (w : Width) (s u : State) : State := writeReg .w16 .si (readReg .w16 .si s + elementStep w s) u

/-- DI moved by one element. -/
def stepDest (w : Width) (s u : State) : State := writeReg .w16 .di (readReg .w16 .di s + elementStep w s) u

/-- The state after one iteration, the memory accesses taken as given (46_string.md R461-R465). -/
def iterated (f : StringForm) (s : State) : State :=
  let a := memValue f.w (stringSource f.ovr s) s
  let b := memValue f.w (stringDest s) s
  let acc := readReg f.w .ax s
  match f.op with
  | .movs => stepDest f.w s (stepSource f.w s (memStored f.w (stringDest s) a s))
  | .cmps => stepDest f.w s (stepSource f.w s (s.setFlags (updateSUB a b false s.flags).2))
  | .scas => stepDest f.w s (s.setFlags (updateSUB acc b false s.flags).2)
  | .stos => stepDest f.w s (memStored f.w (stringDest s) acc s)
  | .lods => stepSource f.w s (writeReg f.w .ax a s)

/-- The elements of one iteration lie in memory. -/
def elementInMemory (f : StringForm) (s : State) : Prop :=
  (usesSource f.op = true → inMemory (stringSource f.ovr s) f.w.bytes s) ∧
    (usesDest f.op = true → inMemory (stringDest s) f.w.bytes s)

theorem readReg_w16_writeReg_ax (w : Width) {q : Reg} (h : q ≠ .ax) (v : BitVec w.bits) (s : State) :
    readReg .w16 q (writeReg w .ax v s) = readReg .w16 q s := by
  have hset (d : Dword) : (s.gpr.set .ax d).get16 q = s.gpr.get16 q := by rw [GPR.get16, GPR.get_set_ne _ _ _ _ h, GPR.get16]
  cases w <;> exact hset _

theorem advance_source {w : Width} {s u : State} (hsi : readReg .w16 .si u = readReg .w16 .si s)
    (hdf : u.flags.DF = s.flags.DF) : advance w .si u = stepSource w s u := by
  rw [advance, stepSource, hsi, stringDelta_eq, elementStep, elementStep, hdf]

theorem advance_dest {w : Width} {s u : State} (hdi : readReg .w16 .di u = readReg .w16 .di s)
    (hdf : u.flags.DF = s.flags.DF) : advance w .di u = stepDest w s u := by
  rw [advance, stepDest, hdi, stringDelta_eq, elementStep, elementStep, hdf]

theorem advance_both {w : Width} {s u : State} (hgpr : u.gpr = s.gpr) (hdf : u.flags.DF = s.flags.DF) :
    advance w .di (advance w .si u) = stepDest w s (stepSource w s u) := by
  have hreg (r : Reg) : readReg .w16 r u = readReg .w16 r s := by simp only [readReg, hgpr]
  rw [advance_source (hreg .si) hdf]
  exact advance_dest ((readReg_writeReg_w16_ne .si .di _ u (by decide)).trans (hreg .di)) (by simpa [stepSource] using hdf)

theorem stringIteration_ok {f : StringForm} {s : State} (h : elementInMemory f s) :
    stringIteration f.op f.w f.ovr s = .ok (iterated f s) := by
  obtain ⟨op, w, ovr⟩ := f
  obtain ⟨hsrc, hdst⟩ := h
  cases op with
  | movs =>
    simp only [stringIteration, memRead_ok _ _ _ (hsrc rfl), memWrite_ok _ _ _ _ (hdst rfl)]
    exact congrArg _ (advance_both rfl rfl)
  | cmps =>
    simp only [stringIteration, memRead_ok _ _ _ (hsrc rfl), memRead_ok _ _ _ (hdst rfl)]
    exact congrArg _ (advance_both rfl rfl)
  | scas =>
    simp only [stringIteration, memRead_ok _ _ _ (hdst rfl)]
    exact congrArg _ (advance_dest rfl rfl)
  | stos =>
    simp only [stringIteration, memWrite_ok _ _ _ _ (hdst rfl)]
    exact congrArg _ (advance_dest rfl rfl)
  | lods =>
    simp only [stringIteration, memRead_ok _ _ _ (hsrc rfl)]
    exact congrArg _ (advance_source (readReg_w16_writeReg_ax w (by decide) _ s) (by simp))

/-- The access of an iteration that fails: the source element, else the destination element. -/
def elementFault (f : StringForm) (s : State) : FaultInfo :=
  if usesSource f.op = true ∧ ¬ inMemory (stringSource f.ovr s) f.w.bytes s then
    .memoryFault (stringSource f.ovr s) f.w.bytes .read
  else .memoryFault (stringDest s) f.w.bytes (if f.op = .movs ∨ f.op = .stos then .write else .read)

theorem stringIteration_error {f : StringForm} {s : State} (h : ¬ elementInMemory f s) :
    stringIteration f.op f.w f.ovr s = .error (elementFault f s) := by
  obtain ⟨op, w, ovr⟩ := f
  unfold elementInMemory at h
  unfold elementFault
  by_cases hsrc : inMemory (stringSource ovr s) w.bytes s
  · have hdst : usesDest op = true ∧ ¬ inMemory (stringDest s) w.bytes s := by
      simpa only [hsrc, implies_true, true_and, Classical.not_imp] using h
    obtain ⟨huse, hdst⟩ := hdst
    rw [if_neg fun hc => hc.2 hsrc]
    cases op with
    | movs => simp only [stringIteration, memRead_ok _ _ _ hsrc, memWrite_error _ _ _ _ hdst]; rfl
    | cmps => simp only [stringIteration, memRead_ok _ _ _ hsrc, memRead_error _ _ _ hdst]; rfl
    | scas => simp only [stringIteration, memRead_error _ _ _ hdst]; rfl
    | stos => simp only [stringIteration, memWrite_error _ _ _ _ hdst]; rfl
    | lods => cases huse
  · cases op with
    | movs | cmps | lods =>
      rw [if_pos ⟨rfl, hsrc⟩]
      simp only [stringIteration, memRead_error _ _ _ hsrc]
    | scas | stos =>
      have hdst : ¬ inMemory (stringDest s) w.bytes s := by simpa [usesSource, usesDest] using h
      rw [if_neg fun hc => nomatch hc.1]
      simp only [stringIteration, memRead_error _ _ _ hdst, memWrite_error _ _ _ _ hdst]
      rfl

theorem stringIteration_inv {f : StringForm} {s t : State} (h : stringIteration f.op f.w f.ovr s = .ok t) :
    elementInMemory f s ∧ t = iterated f s := by
  by_cases hmem : elementInMemory f s
  · rw [stringIteration_ok hmem] at h
    cases h
    exact ⟨hmem, rfl⟩
  · rw [stringIteration_error hmem] at h
    cases h

@[simp] theorem iterated_ip (f : StringForm) (s : State) : (iterated f s).ip = s.ip := by
  obtain ⟨op, w, ovr⟩ := f
  cases op <;> simp [iterated, stepSource, stepDest]

@[simp] theorem iterated_k (f : StringForm) (s : State) : (iterated f s).k = s.k := by
  obtain ⟨op, w, ovr⟩ := f
  cases op <;> simp [iterated, stepSource, stepDest]

@[simp] theorem iterated_sreg (f : StringForm) (s : State) : (iterated f s).sreg = s.sreg := by
  obtain ⟨op, w, ovr⟩ := f
  cases op <;> simp [iterated, stepSource, stepDest, memStored]

@[simp] theorem iterated_params (f : StringForm) (s : State) : (iterated f s).params = s.params := by
  obtain ⟨op, w, ovr⟩ := f
  cases op <;> simp [iterated, stepSource, stepDest, memStored]

@[simp] theorem iterated_DF (f : StringForm) (s : State) : (iterated f s).flags.DF = s.flags.DF := by
  obtain ⟨op, w, ovr⟩ := f
  cases op <;> simp [iterated, stepSource, stepDest, memStored] <;> rfl

theorem readReg_si_iterated {f : StringForm} (h : usesSource f.op = true) (s : State) :
    readReg .w16 .si (iterated f s) = readReg .w16 .si s + elementStep f.w s := by
  obtain ⟨op, w, ovr⟩ := f
  cases op with
  | movs | cmps =>
    exact (readReg_writeReg_w16_ne .di .si _ _ (by decide)).trans (readReg_writeReg_self .w16 .si _ _)
  | lods => exact readReg_writeReg_self .w16 .si _ _
  | scas | stos => cases h

theorem readReg_di_iterated {f : StringForm} (h : usesDest f.op = true) (s : State) :
    readReg .w16 .di (iterated f s) = readReg .w16 .di s + elementStep f.w s := by
  obtain ⟨op, w, ovr⟩ := f
  cases op with
  | movs | cmps | scas | stos => exact readReg_writeReg_self .w16 .di _ _
  | lods => cases h

theorem readReg_cx_iterated (f : StringForm) (s : State) : readReg .w16 .cx (iterated f s) = readReg .w16 .cx s := by
  obtain ⟨op, w, ovr⟩ := f
  have hsi (u : State) : readReg .w16 .cx (stepSource w s u) = readReg .w16 .cx u :=
    readReg_writeReg_w16_ne .si .cx _ u (by decide)
  have hdi (u : State) : readReg .w16 .cx (stepDest w s u) = readReg .w16 .cx u :=
    readReg_writeReg_w16_ne .di .cx _ u (by decide)
  cases op with
  | movs | cmps => exact (hdi _).trans (hsi _)
  | scas | stos => exact hdi _
  | lods => exact (hsi _).trans (readReg_w16_writeReg_ax w (by decide) _ s)

theorem sourceElement_zero (w : Width) (ovr : Option SReg) (s : State) : sourceElement w ovr s 0 = stringSource ovr s := by
  simp [sourceElement, stringSource]

theorem destElement_zero (w : Width) (s : State) : destElement w s 0 = stringDest s := by
  simp [destElement, stringDest]

/-- Settles O45. -/
theorem stringElementResult : Obligations.StringElementResult := by
  intro i s f hf hmem
  have hone : elementInMemory f s := by
    have := hmem 0 Nat.one_pos
    rwa [sourceElement_zero, destElement_zero] at this
  dsimp only
  rw [exec_stringForm s hf, stringOnce, stringIteration_ok hone, orRaise_ok]
  refine (done_eq (iterated_ip f s) (iterated_k f s)).trans ?_
  congr 2

/-! ## A round of the loop -/

/-- One iteration and the decrement of CX, the memory accesses taken as given. -/
def rounded (f : StringForm) (s : State) : State := writeReg .w16 .cx (readReg .w16 .cx s - 1#16) (iterated f s)

/-- `j` rounds. -/
def rounds (f : StringForm) : Nat → State → State
  | 0, s => s
  | j + 1, s => rounds f j (rounded f s)

@[simp] theorem rounded_ip (f : StringForm) (s : State) : (rounded f s).ip = s.ip := by simp [rounded]

@[simp] theorem rounded_k (f : StringForm) (s : State) : (rounded f s).k = s.k := by simp [rounded]

@[simp] theorem rounded_sreg (f : StringForm) (s : State) : (rounded f s).sreg = s.sreg := by simp [rounded]

@[simp] theorem rounded_params (f : StringForm) (s : State) : (rounded f s).params = s.params := by simp [rounded]

@[simp] theorem rounded_mem (f : StringForm) (s : State) : (rounded f s).mem = (iterated f s).mem := by simp [rounded]

@[simp] theorem rounded_flags (f : StringForm) (s : State) : (rounded f s).flags = (iterated f s).flags := by simp [rounded]

@[simp] theorem readReg_cx_rounded (f : StringForm) (s : State) :
    readReg .w16 .cx (rounded f s) = readReg .w16 .cx s - 1#16 := readReg_writeReg_self .w16 .cx _ _

@[simp] theorem elementStep_rounded (f : StringForm) (s : State) : elementStep f.w (rounded f s) = elementStep f.w s := by
  simp [elementStep]

theorem inMemory_rounded (f : StringForm) (s : State) (p n : Nat) : inMemory p n (rounded f s) ↔ inMemory p n s := by
  simp [inMemory]

/-- After a round the elements ahead are one fewer. -/
theorem sourceElement_rounded {f : StringForm} (h : usesSource f.op = true) (s : State) (j : Nat) :
    sourceElement f.w f.ovr (rounded f s) j = sourceElement f.w f.ovr s (j + 1) := by
  have hsi : readReg .w16 .si (rounded f s) = readReg .w16 .si s + elementStep f.w s :=
    (readReg_writeReg_w16_ne .cx .si _ _ (by decide)).trans (readReg_si_iterated h s)
  simp only [sourceElement, State.addr, rounded_sreg, hsi, elementStep_rounded]
  congr 1
  rw [BitVec.ofNat_add, BitVec.add_mul, BitVec.one_mul, BitVec.add_assoc, BitVec.add_comm (elementStep f.w s)]

theorem destElement_rounded {f : StringForm} (h : usesDest f.op = true) (s : State) (j : Nat) :
    destElement f.w (rounded f s) j = destElement f.w s (j + 1) := by
  have hdi : readReg .w16 .di (rounded f s) = readReg .w16 .di s + elementStep f.w s :=
    (readReg_writeReg_w16_ne .cx .di _ _ (by decide)).trans (readReg_di_iterated h s)
  simp only [destElement, State.addr, rounded_sreg, hdi, elementStep_rounded]
  congr 1
  rw [BitVec.ofNat_add, BitVec.add_mul, BitVec.one_mul, BitVec.add_assoc, BitVec.add_comm (elementStep f.w s)]

theorem elementsInMemory_zero (f : StringForm) (s : State) : elementsInMemory f s 0 := nofun

theorem elementsInMemory_succ {f : StringForm} {s : State} {n : Nat} :
    elementsInMemory f s (n + 1) ↔ elementInMemory f s ∧ elementsInMemory f (rounded f s) n := by
  have hround (j : Nat) :
      ((usesSource f.op = true → inMemory (sourceElement f.w f.ovr (rounded f s) j) f.w.bytes (rounded f s)) ∧
        (usesDest f.op = true → inMemory (destElement f.w (rounded f s) j) f.w.bytes (rounded f s))) ↔
      ((usesSource f.op = true → inMemory (sourceElement f.w f.ovr s (j + 1)) f.w.bytes s) ∧
        (usesDest f.op = true → inMemory (destElement f.w s (j + 1)) f.w.bytes s)) := by
    simp only [inMemory_rounded]
    refine and_congr (imp_congr_right fun h => ?_) (imp_congr_right fun h => ?_)
    · rw [sourceElement_rounded h]
    · rw [destElement_rounded h]
  unfold elementsInMemory elementInMemory
  rw [Nat.forall_lt_succ_left', sourceElement_zero, destElement_zero]
  exact and_congr_right fun _ => forall₂_congr fun j _ => (hround j).symm

/-! ## The loop -/

theorem repeatStops_iff {kind : Repeat} {f : Flags} : repeatStops kind f = true ↔ repeatEnds kind f := by
  cases kind <;> simp [repeatStops, repeatEnds]

theorem repeatLoop_succ {f : StringForm} {s : State} (kind : Repeat) (n : Nat) (h : elementInMemory f s) :
    repeatLoop f.op f.w f.ovr kind (n + 1) s =
      if repeatStops kind (iterated f s).flags then .ok (rounded f s)
      else repeatLoop f.op f.w f.ovr kind n (rounded f s) := by
  rw [repeatLoop, stringIteration_ok h]
  simp only [State.cx, readReg_cx_iterated, writeReg_flags]
  rfl

theorem repeatLoop_error {f : StringForm} {s : State} (kind : Repeat) (n : Nat) (h : ¬ elementInMemory f s) :
    repeatLoop f.op f.w f.ovr kind (n + 1) s = .error (elementFault f s, s) := by
  rw [repeatLoop, stringIteration_error h]

theorem cx_rounded {s : State} {n : Nat} (f : StringForm) (h : (readReg .w16 .cx s).toNat = n + 1) :
    (readReg .w16 .cx (rounded f s)).toNat = n := by
  have hdec (x : Word) (hx : x.toNat = n + 1) : (x - 1#16).toNat = n := by bv_omega
  rw [readReg_cx_rounded]
  exact hdec _ h

theorem setIp_self {s : State} {v : Word} (h : s.ip = v) : s.setIp v = s := by
  rw [← h]; rfl

/-- Settles O46. -/
theorem repetitionUnrolls : Obligations.RepetitionUnrolls := by
  intro i j s t f hi hj
  rw [exec_repeatForm s hi, stringRepeat, exec_stringForm s hj, stringOnce]
  refine ⟨fun hzero => ?_, fun hpos hexec hfault => ?_⟩
  · rw [State.cx, hzero]; rfl
  · obtain ⟨t', hiter, hdone⟩ := orRaise_unmarked hexec hfault
    obtain ⟨hmem, rfl⟩ := stringIteration_inv hiter
    rw [done_eq (iterated_ip ..) (iterated_k ..)] at hdone
    cases hdone
    obtain ⟨n, hn⟩ : ∃ n, (readReg .w16 .cx s).toNat = n + 1 :=
      Nat.exists_eq_succ_of_ne_zero fun h0 => hpos (BitVec.eq_of_toNat_eq h0)
    have hu : (writeReg .w16 .cx (readReg .w16 .cx s - 1#16) ((iterated f.toStringForm s).setIp s.ipNext)).setIp s.ip =
        rounded f.toStringForm s := setIp_self (rounded_ip f.toStringForm s)
    rw [hu, State.cx, hn, repeatLoop_succ _ _ hmem]
    refine ⟨fun hends => ?_, fun hends v hv hvf => ?_⟩
    · rw [rounded_flags] at hends
      rw [if_pos (repeatStops_iff.mpr hends)]
      exact done_eq (rounded_ip ..) (rounded_k ..)
    · rw [rounded_flags] at hends
      rw [if_neg fun h => hends (repeatStops_iff.mp h)]
      rw [exec_repeatForm _ hi, stringRepeat, State.cx, cx_rounded _ hn] at hv
      cases hloop : repeatLoop f.op f.w f.ovr f.kind n (rounded f.toStringForm s) with
      | ok r => rw [hloop] at hv; exact hv
      | error c => rw [hloop] at hv; exact absurd hvf (raise_marks hv)

/-- A loop over elements in memory completes; it ends because CX is 0 or by the ZF test. -/
theorem repeatLoop_completes {f : StringForm} (kind : Repeat) {n : Nat} {s : State} (hn : (readReg .w16 .cx s).toNat = n)
    (h : elementsInMemory f s n) :
    ∃ t, repeatLoop f.op f.w f.ovr kind n s = .ok t ∧ t.ip = s.ip ∧ t.k = s.k ∧
      (readReg .w16 .cx t = 0#16 ∨ repeatEnds kind t.flags) := by
  induction n generalizing s with
  | zero => exact ⟨s, rfl, rfl, rfl, .inl (BitVec.eq_of_toNat_eq hn)⟩
  | succ n ih =>
    obtain ⟨hfirst, hrest⟩ := elementsInMemory_succ.mp h
    rw [repeatLoop_succ kind n hfirst]
    by_cases hstop : repeatStops kind (iterated f s).flags = true
    · rw [if_pos hstop]
      exact ⟨_, rfl, rounded_ip .., rounded_k .., .inr (by rw [rounded_flags]; exact repeatStops_iff.mp hstop)⟩
    · rw [if_neg hstop]
      obtain ⟨t, ht, hip, hk, hend⟩ := ih (cx_rounded f hn) hrest
      exact ⟨t, ht, hip.trans (rounded_ip ..), hk.trans (rounded_k ..), hend⟩

/-- Settles O47. -/
theorem repetitionCompletes : Obligations.RepetitionCompletes := by
  intro i s f hi hfault hmem
  obtain ⟨t, ht, hip, hk, hend⟩ := repeatLoop_completes f.kind rfl hmem
  refine ⟨t.setIp s.ipNext, ?_, (kept_repeatLoop _ ht).fault.trans hfault, rfl, hend⟩
  rw [exec_repeatForm s hi, stringRepeat, State.cx, ht]
  exact done_eq hip hk

end Sys2Proof.Machine
end

section
/-! What REP STOS and REP MOVS leave in memory (46_string.md R470): the elements are stored one after the other, and two of
them are the same or do not overlap. -/

namespace Sys2Proof.Machine

/-! ## Elements stored one after the other -/

/-- Memory after values are stored at the first `n` of the addresses `dst`, in order. -/
def storeElements (w : Width) (dst : Nat → Nat) (val : Nat → BitVec w.bits) : Nat → Memory → Memory
  | 0, m => m
  | n + 1, m => Memory.store (storeElements w dst val n m) (dst n) (val n).toNat w.bytes

theorem storeElements_succ_left (w : Width) (dst : Nat → Nat) (val : Nat → BitVec w.bits) (n : Nat) (m : Memory) :
    storeElements w dst val (n + 1) m =
      storeElements w (fun j => dst (j + 1)) (fun j => val (j + 1)) n (Memory.store m (dst 0) (val 0).toNat w.bytes) := by
  induction n with
  | zero => rfl
  | succ n ih => rw [storeElements, ih]; rfl

theorem storeElements_congr {w : Width} {dst dst' : Nat → Nat} {val val' : Nat → BitVec w.bits} {n : Nat} (m : Memory)
    (h : ∀ j < n, dst j = dst' j ∧ val j = val' j) : storeElements w dst val n m = storeElements w dst' val' n m := by
  induction n with
  | zero => rfl
  | succ n ih =>
    obtain ⟨hdst, hval⟩ := h n (Nat.lt_succ_self n)
    rw [storeElements, storeElements, ih fun j hj => h j (by omega), hdst, hval]

theorem storeElements_wf {w : Width} {dst : Nat → Nat} {val : Nat → BitVec w.bits} {m : Memory} (n : Nat)
    (h : Memory.wf m) : Memory.wf (storeElements w dst val n m) := by
  induction n with
  | zero => exact h
  | succ n ih => exact Memory.store_wf _ _ _ _ ih

theorem read_storeElements_outside {w : Width} {dst : Nat → Nat} {val : Nat → BitVec w.bits} {m : Memory} {n a : Nat}
    (h : ∀ j < n, a ∉ byteRange (dst j) w.bytes) : Memory.read (storeElements w dst val n m) a = Memory.read m a := by
  induction n with
  | zero => rfl
  | succ n ih =>
    have hlast := h n (Nat.lt_succ_self n)
    rw [mem_byteRange] at hlast
    rw [storeElements, Memory.read_store_outside _ _ _ _ _ (by omega), ih fun j hj => h j (by omega)]

/-- Where equal addresses get equal values and others do not overlap, every value stored is there at the end. -/
theorem load_storeElements {w : Width} {dst : Nat → Nat} {val : Nat → BitVec w.bits} {m : Memory} {n j : Nat}
    (hwf : Memory.wf m) (hj : j < n)
    (h : ∀ l < n, (dst l = dst j ∧ val l = val j) ∨ dst l + w.bytes ≤ dst j ∨ dst j + w.bytes ≤ dst l) :
    Memory.load (storeElements w dst val n m) (dst j) w.bytes = (val j).toNat := by
  induction n with
  | zero => omega
  | succ n ih =>
    obtain ⟨hdst, hval⟩ | hdisjoint := h n (Nat.lt_succ_self n)
    · rw [storeElements, hdst, hval, Memory.load_store _ _ _ _ (storeElements_wf n hwf), ← bits_eq,
        Nat.mod_eq_of_lt (val j).isLt]
    · have hne : j ≠ n := by
        rintro rfl
        have := bytes_pos w
        omega
      rw [storeElements, Memory.load_store_disjoint _ _ _ _ _ _ (storeElements_wf n hwf) hdisjoint]
      exact ih (by omega) fun l hl => h l (by omega)

/-! ## The elements of a repetition -/

/-- The indices move by multiples of the width, also where they wrap. -/
theorem bytes_dvd_mul_elementStep (w : Width) (s : State) (c : Word) : w.bytes ∣ (c * elementStep w s).toNat := by
  have hstep : w.bytes ∣ (elementStep w s).toNat := by
    unfold elementStep
    cases w <;> cases s.flags.DF <;> decide
  have hmod : w.bytes ∣ 2 ^ 16 := by cases w <;> decide
  rw [BitVec.toNat_mul, Nat.dvd_mod_iff hmod]
  exact Nat.dvd_mul_left_of_dvd hstep _

/-- Two elements of a repetition are the same or do not overlap: their offsets agree modulo the width. -/
theorem element_eq_or_disjoint (w : Width) (s : State) (base : Nat) (x : Word) (j l : Nat) :
    BitVec.ofNat 16 j * elementStep w s = BitVec.ofNat 16 l * elementStep w s ∨
      base + (x + BitVec.ofNat 16 j * elementStep w s).toNat + w.bytes ≤
        base + (x + BitVec.ofNat 16 l * elementStep w s).toNat ∨
      base + (x + BitVec.ofNat 16 l * elementStep w s).toNat + w.bytes ≤
        base + (x + BitVec.ofNat 16 j * elementStep w s).toNat := by
  obtain ⟨m, hm⟩ := bytes_dvd_mul_elementStep w s (BitVec.ofNat 16 j)
  obtain ⟨k, hk⟩ := bytes_dvd_mul_elementStep w s (BitVec.ofNat 16 l)
  rw [BitVec.toNat_eq, BitVec.toNat_add, BitVec.toNat_add]
  have := (BitVec.ofNat 16 j * elementStep w s).isLt
  have := (BitVec.ofNat 16 l * elementStep w s).isLt
  cases w <;> simp only [Width.bytes] at hm hk ⊢ <;> omega

theorem destElement_eq_or_disjoint (w : Width) (s : State) (j l : Nat) :
    BitVec.ofNat 16 j * elementStep w s = BitVec.ofNat 16 l * elementStep w s ∨
      destElement w s j + w.bytes ≤ destElement w s l ∨ destElement w s l + w.bytes ≤ destElement w s j :=
  element_eq_or_disjoint w s _ _ j l

theorem destElement_congr {w : Width} {s : State} {j l : Nat}
    (h : BitVec.ofNat 16 j * elementStep w s = BitVec.ofNat 16 l * elementStep w s) :
    destElement w s j = destElement w s l := by
  rw [destElement, destElement, h]

theorem sourceElement_congr {w : Width} {ovr : Option SReg} {s : State} {j l : Nat}
    (h : BitVec.ofNat 16 j * elementStep w s = BitVec.ofNat 16 l * elementStep w s) :
    sourceElement w ovr s j = sourceElement w ovr s l := by
  rw [sourceElement, sourceElement, h]

/-! ## The memory of a repetition -/

theorem repeatForm_kind {i : Instr} {f : RepeatForm} (h : repeatForm i = some f) (hop : f.op ≠ .cmps ∧ f.op ≠ .scas) :
    f.kind = .rep := by
  cases i <;> cases h <;> first | rfl | exact absurd rfl hop.1 | exact absurd rfl hop.2

theorem readReg_ax_writeReg_w16 (w : Width) {q : Reg} (h : .ax ≠ q) (v : Word) (s : State) :
    readReg w .ax (writeReg .w16 q v s) = readReg w .ax s := by
  cases w <;> simp only [readReg, writeReg, State.setGpr_gpr, GPR.get8, GPR.get16, GPR.set16, byteParent,
    GPR.get_set_ne _ _ _ _ h]

/-- A repetition without a ZF test runs all its rounds. -/
theorem repeatLoop_rep {f : StringForm} {s : State} {n : Nat} (h : elementsInMemory f s n) :
    repeatLoop f.op f.w f.ovr .rep n s = .ok (rounds f n s) := by
  induction n generalizing s with
  | zero => rfl
  | succ n ih =>
    obtain ⟨hfirst, hrest⟩ := elementsInMemory_succ.mp h
    rw [repeatLoop_succ .rep n hfirst, if_neg nofun, ih hrest]
    rfl

theorem mem_iterated_stos {f : StringForm} (hop : f.op = .stos) (s : State) :
    (iterated f s).mem = Memory.store s.mem (stringDest s) (readReg f.w .ax s).toNat f.w.bytes := by
  rw [iterated, hop]; simp [stepDest, memStored]

theorem mem_iterated_movs {f : StringForm} (hop : f.op = .movs) (s : State) :
    (iterated f s).mem =
      Memory.store s.mem (stringDest s) (memValue f.w (stringSource f.ovr s) s).toNat f.w.bytes := by
  rw [iterated, hop]; simp [stepDest, stepSource, memStored]

theorem readReg_ax_rounded_stos {f : StringForm} (hop : f.op = .stos) (s : State) :
    readReg f.w .ax (rounded f s) = readReg f.w .ax s := by
  rw [rounded, readReg_ax_writeReg_w16 _ (by decide), iterated, hop]
  exact readReg_ax_writeReg_w16 _ (by decide) _ _

theorem mem_rounds_stos {f : StringForm} (hop : f.op = .stos) (n : Nat) (s : State) :
    (rounds f n s).mem = storeElements f.w (destElement f.w s) (fun _ => readReg f.w .ax s) n s.mem := by
  have huse : usesDest f.op = true := by rw [hop]; rfl
  induction n generalizing s with
  | zero => rfl
  | succ n ih =>
    rw [rounds, ih, storeElements_succ_left, rounded_mem, mem_iterated_stos hop, destElement_zero,
      readReg_ax_rounded_stos hop]
    exact storeElements_congr _ fun j _ => ⟨destElement_rounded huse s j, rfl⟩

/-- MOVS moves what was in memory at the start if no source element is overwritten. -/
theorem mem_rounds_movs {f : StringForm} (hop : f.op = .movs) {n : Nat} {s : State}
    (h : ∀ j < n, ∀ l < n, sourceElement f.w f.ovr s j + f.w.bytes ≤ destElement f.w s l ∨
      destElement f.w s l + f.w.bytes ≤ sourceElement f.w f.ovr s j) :
    (rounds f n s).mem =
      storeElements f.w (destElement f.w s) (fun j => memValue f.w (sourceElement f.w f.ovr s j) s) n s.mem := by
  have husesrc : usesSource f.op = true := by rw [hop]; rfl
  have husedst : usesDest f.op = true := by rw [hop]; rfl
  induction n generalizing s with
  | zero => rfl
  | succ n ih =>
    rw [rounds, ih fun j hj l hl => by
      rw [sourceElement_rounded husesrc, destElement_rounded husedst]; exact h _ (by omega) _ (by omega)]
    rw [storeElements_succ_left, rounded_mem, mem_iterated_movs hop, destElement_zero, sourceElement_zero]
    refine storeElements_congr _ fun j hj => ⟨destElement_rounded husedst s j, ?_⟩
    rw [sourceElement_rounded husesrc]
    have hkept := memValue_memStored_disjoint (v := memValue f.w (stringSource f.ovr s) s) (s := s) (x := f.w)
      (h (j + 1) (by omega) 0 (by omega)).symm
    rw [destElement_zero] at hkept
    rw [← hkept, memValue, memValue, rounded_mem, mem_iterated_movs hop]
    rfl

/-- Settles O48. -/
theorem repeatedStores : Obligations.RepeatedStores := by
  intro i s f hi hfault hwf
  dsimp only
  intro hmem
  have hexec (hop : f.op ≠ .cmps ∧ f.op ≠ .scas) :
      ∃ ip, exec i s = .next ((rounds f.toStringForm (readReg .w16 .cx s).toNat s).setIp ip) := by
    rw [exec_repeatForm s hi, stringRepeat, State.cx, repeatForm_kind hi hop, repeatLoop_rep hmem]
    exact ⟨_, rfl⟩
  refine ⟨fun hop => ?_, fun hop hdisjoint => ?_⟩
  · obtain ⟨ip, ht⟩ := hexec (by rw [hop]; decide)
    refine ⟨_, ht, fun j hj => ?_, fun a ha => ?_⟩
    · rw [memValue, State.setIp_mem, mem_rounds_stos hop, load_storeElements hwf hj, BitVec.ofNat_toNat,
        BitVec.setWidth_eq]
      exact fun l _ => (destElement_eq_or_disjoint f.w s l j).imp_left fun h => ⟨destElement_congr h, rfl⟩
    · rw [State.setIp_mem, mem_rounds_stos hop, read_storeElements_outside ha]
  · obtain ⟨ip, ht⟩ := hexec (by rw [hop]; decide)
    refine ⟨_, ht, fun j hj => ?_, fun a ha => ?_⟩
    · rw [memValue, State.setIp_mem, mem_rounds_movs hop hdisjoint, load_storeElements hwf hj, BitVec.ofNat_toNat,
        BitVec.setWidth_eq]
      exact fun l _ => (destElement_eq_or_disjoint f.w s l j).imp_left fun h =>
        ⟨destElement_congr h, by rw [sourceElement_congr h]⟩
    · rw [State.setIp_mem, mem_rounds_movs hop hdisjoint, read_storeElements_outside ha]

end Sys2Proof.Machine
end

section
/-! The frames of arithmetic and data transfer: what an instruction that completes leaves unchanged. -/

namespace Sys2Proof.Machine

/-! ## Frames of the shared writes -/

theorem operandWrites_congr {s u : State} (h : u.sreg = s.sreg) (w : Width) (op : Operand) :
    operandWrites w op u = operandWrites w op s := by
  cases op <;> simp [operandWrites, operandBytes, State.addr, h]

/-- An operand of `s` written in a later state, among other places. -/
theorem unchanged_stored_later {x : Writes} {s u : State} (h : Unchanged x s u) {w : Width} {op : Operand}
    (v : BitVec w.bits) (hu : u.sreg = s.sreg) (hregs : ∀ p ∈ (operandWrites w op s).regs, p ∈ x.regs)
    (hsregs : ∀ p ∈ (operandWrites w op s).sregs, p ∈ x.sregs) (hbytes : ∀ p ∈ operandBytes w op s, p ∈ x.bytes) :
    Unchanged x s (stored w op v u) := by
  have hstored := unchanged_stored w op v u
  rw [operandWrites_congr hu] at hstored
  exact h.both (hstored.mono hregs hsregs nofun hbytes)

theorem unchanged_set (x : Writes) {n : FlagName} (v : Bool) (s : State) (h : n ∈ x.flags) :
    Unchanged x s (s.setFlags (s.flags.set n v)) :=
  unchanged_setFlags x _ s fun _ hm => Flags.get_set_ne _ _ _ _ fun he => hm (he ▸ h)

theorem unchanged_draws (x : Writes) (s : State) (d : Nat) : Unchanged x s { s with draws := d } :=
  ⟨fun _ _ _ => rfl, fun _ _ => rfl, fun _ _ => rfl, fun _ _ => rfl, rfl, rfl, rfl, rfl, rfl⟩

/-! ## Arithmetic -/

theorem unchanged_binaryAlu {op : BinOp} {w : Width} {dst src : Operand} {s t : State}
    (h : binaryAlu op w dst src s = .next t) (hf : t.fault = none) :
    Unchanged (if op = .cmp then { flags := arithFlags } else { operandWrites w dst s with flags := arithFlags }) s t := by
  obtain ⟨a, ha, h'⟩ := orRaise_unmarked h hf
  obtain ⟨b, hb, -⟩ := orRaise_unmarked h' hf
  rw [binaryAlu_ok op w dst src s (readOp_inv w dst s a ha).1 (readOp_inv w src s b hb).1] at h
  refine unchanged_done ?_ h
  have hflags (x : Writes) (hx : x.flags = arithFlags) := unchanged_setFlags x
    (op.apply s.params (valueOf w dst s) (valueOf w src s) s.flags).2 s fun n hn => binOp_frame _ _ _ _ _ n (hx ▸ hn)
  split
  · exact hflags _ rfl
  · exact unchanged_stored_later (hflags _ rfl) _ rfl (fun _ h => h) (fun _ h => h) fun _ h => h

theorem unchanged_testAlu {w : Width} {dst src : Operand} {s t : State} (h : testAlu w dst src s = .next t)
    (hf : t.fault = none) : Unchanged { flags := arithFlags } s t := by
  obtain ⟨a, -, h⟩ := orRaise_unmarked h hf
  obtain ⟨b, -, h⟩ := orRaise_unmarked h hf
  exact unchanged_done (unchanged_setFlags _ _ s fun n hn => updateAND_frame _ _ _ _ n hn) h

theorem unaryFlags_frame {n : Nat} (op : UnOp) (p : Params) (a : BitVec n) (f : Flags) (x : FlagName)
    (h : x ∉ unaryFlags op p) : (op.apply p a f).2.get x = f.get x := by
  cases op with
  | not => rfl
  | neg => exact unOp_frame .neg p a f x h
  | inc | dec =>
    unfold unaryFlags at h
    simp only [UnOp.apply, updateINC, updateDEC]
    cases hp : p.incDecCf with
    | written =>
      rw [if_neg (by rw [hp]; decide)] at h
      cases x <;> first | rfl | exact absurd (by decide) h
    | preserved =>
      rw [if_pos hp] at h
      cases x <;> first | rfl | exact absurd (by decide) h

theorem unchanged_unaryAlu {op : UnOp} {w : Width} {dst : Operand} {s t : State} (h : unaryAlu op w dst s = .next t)
    (hf : t.fault = none) : Unchanged { operandWrites w dst s with flags := unaryFlags op s.params } s t := by
  obtain ⟨a, ha, -⟩ := orRaise_unmarked h hf
  rw [unaryAlu_ok op w dst s (readOp_inv w dst s a ha).1] at h
  exact unchanged_done (unchanged_stored_later (unchanged_setFlags _ _ s fun n hn => unaryFlags_frame op _ _ _ n hn) _ rfl
    (fun _ h => h) (fun _ h => h) fun _ h => h) h

theorem unchanged_writeAcc {x : Writes} {w : Width} (hi lo : BitVec w.bits) (s : State)
    (hhigh : (w, accHigh w) ∈ x.regs) (hlow : (w, Reg.ax) ∈ x.regs) : Unchanged x s (writeAcc w hi lo s) :=
  (unchanged_writeReg x w .ax lo s hlow).both (unchanged_writeReg x w _ hi _ hhigh)

theorem unchanged_mulDivMeaning {f : MulDivForm} {s t : State} (h : mulDivMeaning f s = .next t) (hf : t.fault = none) :
    Unchanged { regs := [(f.w, accHigh f.w), (f.w, .ax)],
                flags := if f.op = .mul ∨ f.op = .imul then [.CF, .OF] else [] } s t := by
  have hacc (x : Writes) (hx : x.regs = [(f.w, accHigh f.w), (f.w, .ax)]) (hi lo : BitVec f.w.bits) :
      Unchanged x s (writeAcc f.w hi lo s) := unchanged_writeAcc hi lo s (by simp [hx]) (by simp [hx])
  have hcarry (x : Writes) (hx : x.flags = [.CF, .OF]) (u : State) (hu : u.flags = s.flags) (c : Bool) :
      Unchanged x u (u.setFlags { s.flags with CF := c, OF := c }) := by
    rw [← hu]
    exact (unchanged_set x (n := .CF) c u (by simp [hx])).both
      (unchanged_set x (n := .OF) c (u.setFlags (u.flags.set .CF c)) (by simp [hx]))
  obtain ⟨op, w, src⟩ := f
  cases op with
  | mul | imul =>
    obtain ⟨a, -, h⟩ := orRaise_unmarked h hf
    exact unchanged_done ((hacc _ rfl _ _).both (hcarry _ rfl _ (by simp [writeAcc]) _)) h
  | div | idiv =>
    obtain ⟨d, -, h⟩ := orRaise_unmarked h hf
    dsimp only at h
    split at h
    · exact absurd hf (raise_marks h)
    · split at h
      · exact absurd hf (raise_marks h)
      · exact unchanged_done (hacc _ rfl _ _) h

theorem shiftFlags_frame {n : Nat} (op : ShiftOp) (r : BitVec n) (cf of : Bool) (f : Flags) (x : FlagName)
    (h : x ∉ if op.isShift then [FlagName.CF, .OF, .SF, .ZF, .PF] else [.CF, .OF]) :
    (op.flags r cf of f).get x = f.get x := by
  unfold ShiftOp.flags
  split at h <;> rename_i hop
  · rw [if_pos hop]
    cases x <;> first | rfl | exact absurd (by decide) h
  · rw [if_neg hop]
    cases x <;> first | rfl | exact absurd (by decide) h

/-- The places a shift or rotate writes. -/
def shiftWrites (op : ShiftOp) (w : Width) (dst : Operand) (s : State) : Writes :=
  { operandWrites w dst s with flags := if op.isShift then [.CF, .OF, .SF, .ZF, .PF] else [.CF, .OF] }

theorem unchanged_shiftOp {op : ShiftOp} {w : Width} {dst : Operand} {src : Byte} {s t : State}
    (h : shiftOp op w dst src s = .next t) (hf : t.fault = none) :
    Unchanged (shiftWrites op w dst s) s t := by
  obtain ⟨a, ha, h⟩ := orRaise_unmarked h hf
  have hacc := (readOp_inv w dst s a ha).1
  have hwrite {c : Nat} {r : BitVec w.bits} {cf of : Bool} {d : Nat}
      (h : shiftWrite op w dst c r cf of { s with draws := d } = .next t) : Unchanged (shiftWrites op w dst s) s t := by
    obtain ⟨v, d', -, hw⟩ := shiftWrite_ok op hacc c r cf of d
    cases hw.symm.trans h
    have hstored : Unchanged (shiftWrites op w dst s) s (stored w dst r s) :=
      unchanged_stored_later (Unchanged.same _ s) r rfl (fun _ h => h) (fun _ h => h) fun _ h => h
    refine ((hstored.both (unchanged_draws _ _ d')).both (unchanged_setFlags _ _ _ fun n hn => ?_)).both
      (unchanged_setIp _ _ _)
    exact (shiftFlags_frame op r cf v s.flags n hn).trans (by cases dst <;> simp [stored, memStored])
  dsimp only at h
  split at h
  · exact unchanged_done (Unchanged.same _ s) h
  · split at h
    · exact unchanged_done (Unchanged.same _ s) h
    · exact hwrite h
    · exact hwrite (d := s.draws + 1) h

/-- Settles O53. -/
theorem arithmeticFrame : Obligations.ArithmeticFrame := by
  refine fun i s t h hf => ⟨fun f hi => ?_, fun f hi => ?_, fun f hi => ?_, fun f hi => ?_, ?_, ?_, ?_, ?_, fun f hi => ?_⟩
  · rw [exec_binaryForm hi] at h; exact unchanged_binaryAlu h hf
  · rw [exec_testForm hi] at h; exact unchanged_testAlu h hf
  · rw [exec_unaryForm hi] at h; exact unchanged_unaryAlu h hf
  · rw [exec_mulDivForm hi] at h; exact unchanged_mulDivMeaning h hf
  · rintro rfl; exact unchanged_done (unchanged_writeReg _ _ _ _ s List.mem_cons_self) h
  · rintro rfl; exact unchanged_done (unchanged_writeReg _ _ _ _ s List.mem_cons_self) h
  · rintro rfl; exact unchanged_done (unchanged_writeReg _ _ _ _ s List.mem_cons_self) h
  · rintro rfl; exact unchanged_done (unchanged_writeReg _ _ _ _ s List.mem_cons_self) h
  · rw [exec_shiftForm hi] at h; exact unchanged_shiftOp h hf

/-! ## Data transfer -/

/-- The first operand of an exchange is no segment register. -/
theorem exchangeForm_dst {i : Instr} {s : State} {f : PairForm} (h : exchangeForm i s = some f) :
    (operandWrites f.w f.dst s).sregs = [] := by
  cases i <;> cases h <;> first | rfl | (rename_i e _; cases e <;> rfl)

theorem unchanged_exchange {i : Instr} {s t : State} {f : PairForm} (hi : exchangeForm i s = some f)
    (h : exec i s = .next t) (hf : t.fault = none) :
    Unchanged { regs := (operandWrites f.w f.dst s).regs ++ (operandWrites f.w f.src s).regs,
                bytes := operandBytes f.w f.dst s } s t := by
  obtain ⟨r, hr⟩ := exchangeForm_src hi
  rw [exec_exchangeForm hi] at h
  obtain ⟨a, -, h⟩ := orRaise_unmarked h hf
  obtain ⟨b, -, h⟩ := orRaise_unmarked h hf
  obtain ⟨u, hu, h⟩ := orRaise_unmarked h hf
  obtain ⟨v, hv, h⟩ := orRaise_unmarked h hf
  obtain ⟨-, rfl⟩ := writeOp_inv _ _ _ _ _ hu
  obtain ⟨-, rfl⟩ := writeOp_inv _ _ _ _ _ hv
  refine unchanged_done ((unchanged_stored_later (Unchanged.same _ s) b rfl (fun _ h => List.mem_append_left _ h) ?_
    fun _ h => h).both ?_) h
  · rw [exchangeForm_dst hi]; nofun
  · rw [hr]
    exact unchanged_writeReg _ _ _ _ _ (List.mem_append_right _ List.mem_cons_self)

theorem unchanged_farLoad {i : Instr} {s t : State} {f : FarLoadForm} (hi : farLoadForm i = some f)
    (h : exec i s = .next t) (hf : t.fault = none) :
    Unchanged { regs := [(f.o.width, f.g)], sregs := [f.seg] } s t := by
  rw [exec_farLoadForm s hi] at h
  obtain ⟨a, -, h⟩ := orRaise_unmarked h hf
  exact unchanged_done ((unchanged_writeReg _ _ _ _ s List.mem_cons_self).both
    (unchanged_setSreg _ _ _ _ List.mem_cons_self)) h

theorem mem_pushedBytes {s : State} {n a : Nat} :
    a ∈ pushedBytes s n ↔ ∃ j < n, a ∈ byteRange (pushAddr s (j + 1)) 2 := by
  simp [pushedBytes]

theorem mem_pushedBytes_of_lt {s : State} {n : Nat} (j : Nat) (hj : j < n) :
    ∀ a ∈ byteRange (pushAddr s (j + 1)) 2, a ∈ pushedBytes s n := fun _ ha => mem_pushedBytes.mpr ⟨j, hj, ha⟩

theorem unchanged_pushValue {v : Word} {s t : State} (h : pushValue v s = .next t) (hf : t.fault = none) :
    Unchanged { regs := [(.w16, .sp)], bytes := pushedBytes s 1 } s t := by
  obtain ⟨u, hu, h⟩ := orRaise_unmarked h hf
  obtain ⟨-, rfl⟩ := push16_inv _ _ _ hu
  exact unchanged_done (unchanged_pushed _ v s List.mem_cons_self (mem_pushedBytes_of_lt 0 Nat.one_pos)) h

theorem unchanged_popOperand {op : Operand} {s t : State} (h : popOperand op s = .next t) (hf : t.fault = none) :
    Unchanged { operandWrites .w16 op s with regs := (.w16, .sp) :: (operandWrites .w16 op s).regs } s t := by
  obtain ⟨⟨v, u⟩, hu, h⟩ := orRaise_unmarked h hf
  obtain ⟨-, -, rfl⟩ := pop16_inv _ _ _ hu
  obtain ⟨u, hu, h⟩ := orRaise_unmarked h hf
  obtain ⟨-, rfl⟩ := writeOp_inv _ _ _ _ _ hu
  exact unchanged_done (unchanged_stored_later (unchanged_writeReg _ _ _ _ s List.mem_cons_self) v (by simp)
    (fun _ h => List.mem_cons_of_mem _ h) (fun _ h => h) fun _ h => h) h

/-- Settles O56. -/
theorem transferFrame : Obligations.TransferFrame := by
  refine fun i s t h hf => ⟨fun f hi => ?_, fun f hi => unchanged_exchange hi h hf, ?_, ?_,
    fun f hi => unchanged_farLoad hi h hf, ?_, fun op hi => ?_, fun op hi => ?_⟩
  · rw [exec_moveForm hi] at h
    obtain ⟨v, -, h⟩ := orRaise_unmarked h hf
    obtain ⟨u, hu, h⟩ := orRaise_unmarked h hf
    obtain ⟨-, rfl⟩ := writeOp_inv _ _ _ _ _ hu
    exact unchanged_done (unchanged_stored ..) h
  · rintro o rfl; exact unchanged_done (Unchanged.same _ s) h
  · rintro o g m rfl; exact unchanged_done (unchanged_writeReg _ _ _ _ s List.mem_cons_self) h
  · rintro o rfl
    obtain ⟨v, -, h⟩ := orRaise_unmarked h hf
    exact unchanged_done (unchanged_writeReg _ _ _ _ s List.mem_cons_self) h
  · rw [exec_pushForm hi] at h
    obtain ⟨v, -, h⟩ := orRaise_unmarked h hf
    exact unchanged_pushValue h hf
  · rw [exec_popForm hi] at h; exact unchanged_popOperand h hf

end Sys2Proof.Machine
end

section
/-! The frames of control transfer and strings, and which instructions write the system state (10_state.md R37, R42). -/

namespace Sys2Proof.Machine

/-! ## Control transfer -/

theorem unchanged_jumpIf {x : Writes} {s u t : State} {c : Bool} {d : Byte} (hu : Unchanged x s u)
    (h : jumpIf c d u = .next t) : Unchanged x s t := by
  unfold jumpIf at h
  split at h
  · cases h; exact hu.both (unchanged_setIp _ _ _)
  · exact unchanged_done hu h

theorem unchanged_callNear {target : Word} {s t : State} (h : callNear target s = .next t) (hf : t.fault = none) :
    Unchanged { regs := [(.w16, .sp)], bytes := pushedBytes s 1 } s t := by
  obtain ⟨u, hu, h⟩ := orRaise_unmarked h hf
  obtain ⟨-, rfl⟩ := push16_inv _ _ _ hu
  cases h
  exact (unchanged_pushed _ _ s List.mem_cons_self (mem_pushedBytes_of_lt 0 Nat.one_pos)).both (unchanged_setIp _ _ _)

theorem unchanged_callFarTo {sel off : Word} {s t : State} (h : callFarTo sel off s = .next t) (hf : t.fault = none) :
    Unchanged { regs := [(.w16, .sp)], sregs := [.cs], bytes := pushedBytes s 2 } s t := by
  obtain ⟨u, hu, h⟩ := orRaise_unmarked h hf
  obtain ⟨-, rfl⟩ := push16_inv _ _ _ hu
  obtain ⟨u, hu, h⟩ := orRaise_unmarked h hf
  obtain ⟨-, rfl⟩ := push16_inv _ _ _ hu
  cases h
  refine (((unchanged_pushed _ _ s List.mem_cons_self (mem_pushedBytes_of_lt 0 (by decide))).both
    (unchanged_pushed _ _ _ List.mem_cons_self ?_)).both (unchanged_setIp _ _ _)).both
      (unchanged_setSreg _ _ _ _ List.mem_cons_self)
  rw [pushAddr_pushed]
  exact mem_pushedBytes_of_lt 1 (by decide)

theorem unchanged_returnNear {n : Word} {s t : State} (h : returnNear n s = .next t) (hf : t.fault = none) :
    Unchanged { regs := [(.w16, .sp)] } s t := by
  obtain ⟨⟨v, u⟩, hu, h⟩ := orRaise_unmarked h hf
  obtain ⟨-, -, rfl⟩ := pop16_inv _ _ _ hu
  cases h
  exact ((unchanged_writeReg _ _ _ _ s List.mem_cons_self).both (unchanged_writeReg _ _ _ _ _ List.mem_cons_self)).both
    (unchanged_setIp _ _ _)

theorem unchanged_returnFar {n : Word} {s t : State} (h : returnFar n s = .next t) (hf : t.fault = none) :
    Unchanged { regs := [(.w16, .sp)], sregs := [.cs] } s t := by
  obtain ⟨⟨v, u⟩, hu, h⟩ := orRaise_unmarked h hf
  obtain ⟨-, -, rfl⟩ := pop16_inv _ _ _ hu
  obtain ⟨⟨v', u⟩, hu, h⟩ := orRaise_unmarked h hf
  obtain ⟨-, -, rfl⟩ := pop16_inv _ _ _ hu
  cases h
  exact ((((unchanged_writeReg _ _ _ _ s List.mem_cons_self).both
    (unchanged_writeReg _ _ _ _ _ List.mem_cons_self)).both (unchanged_writeReg _ _ _ _ _ List.mem_cons_self)).both
      (unchanged_setIp _ _ _)).both (unchanged_setSreg _ _ _ _ List.mem_cons_self)

theorem mem_allFlags (n : FlagName) : n ∈ allFlags := by cases n <;> decide

theorem unchanged_interruptReturn {s t : State} (h : interruptReturn s = .next t) (hf : t.fault = none) :
    Unchanged { regs := [(.w16, .sp)], sregs := [.cs], flags := allFlags } s t := by
  obtain ⟨⟨v, u⟩, hu, h⟩ := orRaise_unmarked h hf
  obtain ⟨-, -, rfl⟩ := pop16_inv _ _ _ hu
  obtain ⟨⟨v', u⟩, hu, h⟩ := orRaise_unmarked h hf
  obtain ⟨-, -, rfl⟩ := pop16_inv _ _ _ hu
  obtain ⟨⟨v', u⟩, hu, h⟩ := orRaise_unmarked h hf
  obtain ⟨-, -, rfl⟩ := pop16_inv _ _ _ hu
  cases h
  exact (((((unchanged_writeReg _ _ _ _ s List.mem_cons_self).both
    (unchanged_writeReg _ _ _ _ _ List.mem_cons_self)).both (unchanged_writeReg _ _ _ _ _ List.mem_cons_self)).both
      (unchanged_setIp _ _ _)).both (unchanged_setSreg _ _ _ _ List.mem_cons_self)).both
        (unchanged_setFlags _ _ _ fun n hn => absurd (mem_allFlags n) hn)

/-- The places the entry of a handler writes. -/
def entryWrites (s : State) : Writes :=
  { regs := [(.w16, .sp)], sregs := [.cs], flags := [.IF, .TF], bytes := pushedBytes s 3 }

theorem unchanged_handlerState (n : Byte) (s : State) : Unchanged (entryWrites s) s (handlerState n s) := by
  have hpush (v : Word) (u : State) (j : Nat) (hj : j < 3) (hu : pushAddr u 1 = pushAddr s (j + 1)) :
      Unchanged (entryWrites s) u (pushed v u) :=
    unchanged_pushed _ v u List.mem_cons_self (by rw [hu]; exact mem_pushedBytes_of_lt j hj)
  have hstack : Unchanged (entryWrites s) s (handlerStack s) :=
    ((hpush _ s 0 (by decide) rfl).both (hpush _ _ 1 (by decide) (by simp))).both (hpush _ _ 2 (by decide) (by simp))
  refine ((hstack.both (unchanged_setFlags _ _ _ fun m hm => ?_)).both (unchanged_setIp _ _ _)).both
    (unchanged_setSreg _ _ _ _ List.mem_cons_self)
  rw [show (handlerStack s).flags = s.flags by simp [handlerStack]]
  cases m <;> first | rfl | exact absurd (by simp [entryWrites]) hm

theorem unchanged_interrupt {i : Instr} {n : Byte} {s t : State} (hi : interruptVector i = some n)
    (hn : n ∉ s.params.hostInt) (h : exec i s = .next t) (hf : t.fault = none) : Unchanged (entryWrites s) s t := by
  obtain hi | ⟨-, -, hi⟩ := exec_interruptVector (s := s) hi
  · rw [hi, interrupt_unclaimed hn] at h
    obtain ⟨-, rfl⟩ := enterVector_inv h hf
    exact unchanged_handlerState n s
  · exact unchanged_done (Unchanged.same _ s) (hi.symm.trans h)

theorem sahfFlags_frame (s : State) (n : FlagName) (h : n ∉ sahfFlags s.params) :
    (s.flags.overlay s.params.ahfMask (readReg .w8 .sp s)).get n = s.flags.get n := by
  simp only [sahfFlags, List.mem_append, not_or] at h
  obtain ⟨⟨⟨⟨hcf, hpf⟩, haf⟩, hzf⟩, hsf⟩ := h
  have hpick {b : Bool} {x y : Bool} {m : FlagName} (hm : m ∉ if b then [m] else []) : (if b then x else y) = y := by
    cases b with
    | false => rfl
    | true => exact absurd List.mem_cons_self hm
  cases n with
  | CF => exact hpick hcf
  | PF => exact hpick hpf
  | AF => exact hpick haf
  | ZF => exact hpick hzf
  | SF => exact hpick hsf
  | TF | IF | DF | OF => rfl

/-- Settles O54. -/
theorem controlFrame : Obligations.ControlFrame := by
  intro i s t h hf
  have hset (n : FlagName) (v : Bool) (h : done (s.setFlags (s.flags.set n v)) = .next t) :
      Unchanged { flags := [n] } s t := unchanged_done (unchanged_set _ v s List.mem_cons_self) h
  refine ⟨?_, ?_, ?_, ?_, ?_, ?_, ?_, fun hi => ?_, ?_, ?_, ?_, ?_, ?_, ?_, ?_, ?_, ?_,
    fun n hi hn => unchanged_interrupt hi hn h hf, ?_⟩
  · rintro (rfl | rfl | rfl)
    · exact hset .CF _ h
    · exact hset .CF _ h
    · exact hset .CF _ h
  · rintro (rfl | rfl)
    · exact hset .DF _ h
    · exact hset .DF _ h
  · rintro (rfl | rfl)
    · exact hset .IF _ h
    · exact hset .IF _ h
  · rintro rfl; exact unchanged_done (unchanged_writeReg _ _ _ _ s List.mem_cons_self) h
  · rintro rfl; exact unchanged_done (unchanged_setFlags _ _ s (sahfFlags_frame s)) h
  · rintro rfl; exact unchanged_pushValue h hf
  · rintro rfl
    obtain ⟨⟨v, u⟩, hu, h⟩ := orRaise_unmarked h hf
    obtain ⟨-, -, rfl⟩ := pop16_inv _ _ _ hu
    exact unchanged_done ((unchanged_writeReg _ _ _ _ s List.mem_cons_self).both
      (unchanged_setFlags _ _ _ fun n hn => absurd (mem_allFlags n) hn)) h
  · obtain ⟨⟨c, d⟩, hi⟩ := Option.ne_none_iff_exists'.mp hi
    rw [exec_shortJump s hi] at h
    exact unchanged_jumpIf (Unchanged.same _ s) h
  · rintro d rfl; exact unchanged_jumpIf (Unchanged.same _ s) h
  · rintro d (rfl | rfl | rfl)
    · exact unchanged_jumpIf (unchanged_writeReg _ _ _ _ s List.mem_cons_self) h
    · exact unchanged_jumpIf (unchanged_writeReg _ _ _ _ s List.mem_cons_self) h
    · exact unchanged_jumpIf (unchanged_writeReg _ _ _ _ s List.mem_cons_self) h
  · rintro (⟨d, rfl⟩ | ⟨d, rfl⟩ | ⟨e, rfl⟩)
    · cases h; exact unchanged_setIp _ _ s
    · cases h; exact unchanged_setIp _ _ s
    · obtain ⟨v, -, h⟩ := orRaise_unmarked h hf
      cases h; exact unchanged_setIp _ _ s
  · have hfar {sel off : Word} (h : jumpFar sel off s = .next t) : Unchanged { sregs := [.cs] } s t := by
      cases h; exact (unchanged_setIp _ _ s).both (unchanged_setSreg _ _ _ _ List.mem_cons_self)
    rintro (⟨a, b, rfl⟩ | ⟨m, rfl⟩)
    · exact hfar h
    · obtain ⟨v, -, h⟩ := orRaise_unmarked h hf
      exact hfar h
  · rintro (⟨d, rfl⟩ | ⟨e, rfl⟩)
    · exact unchanged_callNear h hf
    · obtain ⟨v, -, h⟩ := orRaise_unmarked h hf
      exact unchanged_callNear h hf
  · rintro (⟨a, b, rfl⟩ | ⟨m, rfl⟩)
    · exact unchanged_callFarTo h hf
    · obtain ⟨v, -, h⟩ := orRaise_unmarked h hf
      exact unchanged_callFarTo h hf
  · rintro (rfl | ⟨n, rfl⟩)
    · exact unchanged_returnNear h hf
    · exact unchanged_returnNear h hf
  · rintro (rfl | ⟨n, rfl⟩)
    · exact unchanged_returnFar h hf
    · exact unchanged_returnFar h hf
  · rintro rfl; exact unchanged_interruptReturn h hf
  · rintro rfl; cases h; exact unchanged_setIp _ _ s

/-! ## Strings -/

theorem updateSUB_frame {n : Nat} (a b : BitVec n) (f : Flags) (x : FlagName) (h : x ∉ arithFlags) :
    (updateSUB a b false f).2.get x = f.get x := by
  cases x <;> first | rfl | exact absurd (by decide) h

theorem unchanged_stepSource {x : Writes} (w : Width) (s u : State) (h : (Width.w16, Reg.si) ∈ x.regs) :
    Unchanged x u (stepSource w s u) := unchanged_writeReg _ _ _ _ _ h

theorem unchanged_stepDest {x : Writes} (w : Width) (s u : State) (h : (Width.w16, Reg.di) ∈ x.regs) :
    Unchanged x u (stepDest w s u) := unchanged_writeReg _ _ _ _ _ h

theorem unchanged_iterated (f : StringForm) (s : State) : Unchanged (elementWrites f s) s (iterated f s) := by
  obtain ⟨op, w, ovr⟩ := f
  cases op with
  | movs =>
    refine ((unchanged_memStored _ w _ _ s fun a ha => ?_).both (unchanged_stepSource w s _ (by simp [elementWrites]))).both
      (unchanged_stepDest w s _ (by simp [elementWrites]))
    rwa [← destElement_zero w s] at ha
  | cmps =>
    exact ((unchanged_setFlags _ _ s fun n hn => updateSUB_frame _ _ _ n hn).both
      (unchanged_stepSource w s _ (by simp [elementWrites]))).both (unchanged_stepDest w s _ (by simp [elementWrites]))
  | scas =>
    exact (unchanged_setFlags _ _ s fun n hn => updateSUB_frame _ _ _ n hn).both
      (unchanged_stepDest w s _ (by simp [elementWrites]))
  | stos =>
    refine (unchanged_memStored _ w _ _ s fun a ha => ?_).both (unchanged_stepDest w s _ (by simp [elementWrites]))
    rwa [← destElement_zero w s] at ha
  | lods =>
    exact (unchanged_writeReg _ _ _ _ s (by simp [elementWrites])).both
      (unchanged_stepSource w s _ (by simp [elementWrites]))

/-- The bytes of the first `n` destination elements, of the operations that store. -/
def elementBytes (f : StringForm) (s : State) (n : Nat) : List Nat :=
  match f.op with
  | .movs | .stos => (List.range n).flatMap fun j => byteRange (destElement f.w s j) f.w.bytes
  | .cmps | .scas | .lods => []

/-- What `n` rounds write. -/
def roundsWrites (f : StringForm) (s : State) (n : Nat) : Writes :=
  { elementWrites f s with regs := (.w16, .cx) :: (elementWrites f s).regs, bytes := elementBytes f s n }

theorem mem_elementBytes {f : StringForm} {s : State} {n a : Nat} :
    a ∈ elementBytes f s n ↔ (f.op = .movs ∨ f.op = .stos) ∧ ∃ j < n, a ∈ byteRange (destElement f.w s j) f.w.bytes := by
  unfold elementBytes
  cases f.op <;> simp

theorem elementWrites_bytes_subset {f : StringForm} {s : State} {n a : Nat} (h : a ∈ (elementWrites f s).bytes) :
    a ∈ elementBytes f s (n + 1) := by
  unfold elementWrites at h
  rw [mem_elementBytes]
  cases hop : f.op <;> rw [hop] at h
  case movs => exact ⟨.inl rfl, 0, by omega, h⟩
  case stos => exact ⟨.inr rfl, 0, by omega, h⟩
  case cmps | scas | lods => cases h

theorem elementBytes_rounded_subset {f : StringForm} {s : State} {n a : Nat} (h : a ∈ elementBytes f (rounded f s) n) :
    a ∈ elementBytes f s (n + 1) := by
  rw [mem_elementBytes] at h ⊢
  obtain ⟨hop, j, hj, ha⟩ := h
  have huse : usesDest f.op = true := by obtain hop | hop := hop <;> rw [hop] <;> rfl
  exact ⟨hop, j + 1, by omega, by rwa [destElement_rounded huse] at ha⟩

theorem elementWrites_regs_congr (f : StringForm) (s u : State) : (elementWrites f u).regs = (elementWrites f s).regs := by
  unfold elementWrites; cases f.op <;> rfl

theorem elementWrites_sregs (f : StringForm) (s : State) : (elementWrites f s).sregs = [] := by
  unfold elementWrites; cases f.op <;> rfl

theorem elementWrites_flags_congr (f : StringForm) (s u : State) :
    (elementWrites f u).flags = (elementWrites f s).flags := by
  unfold elementWrites; cases f.op <;> rfl

theorem unchanged_rounded (f : StringForm) (s : State) (n : Nat) :
    Unchanged (roundsWrites f s (n + 1)) s (rounded f s) := by
  have hiterated : Unchanged (roundsWrites f s (n + 1)) s (iterated f s) :=
    (unchanged_iterated f s).mono (fun _ h => List.mem_cons_of_mem _ h) (fun _ h => h) (fun _ h => h)
      fun _ h => elementWrites_bytes_subset h
  exact hiterated.both (unchanged_writeReg _ _ _ _ _ List.mem_cons_self)

theorem unchanged_repeatLoop {f : StringForm} {kind : Repeat} {n : Nat} {s t : State}
    (h : repeatLoop f.op f.w f.ovr kind n s = .ok t) : Unchanged (roundsWrites f s n) s t := by
  induction n generalizing s with
  | zero => cases h; exact Unchanged.same _ _
  | succ n ih =>
    by_cases hmem : elementInMemory f s
    · rw [repeatLoop_succ kind n hmem] at h
      split at h
      · cases h; exact unchanged_rounded f s n
      · refine (unchanged_rounded f s n).both ((ih h).mono ?_ ?_ ?_ fun _ h => elementBytes_rounded_subset h)
        · simp only [roundsWrites, elementWrites_regs_congr f s, imp_self, implies_true]
        · simp only [roundsWrites, elementWrites_sregs, imp_self, implies_true]
        · simp only [roundsWrites, elementWrites_flags_congr f s, imp_self, implies_true]
    · rw [repeatLoop_error kind n hmem] at h; cases h

/-- Settles O55. -/
theorem stringFrame : Obligations.StringFrame := by
  refine fun i s t h hf => ⟨fun f hi => ?_, fun f hi => ?_⟩
  · rw [exec_stringForm s hi] at h
    obtain ⟨u, hu, h⟩ := orRaise_unmarked h hf
    obtain ⟨-, rfl⟩ := stringIteration_inv hu
    exact unchanged_done (unchanged_iterated f s) h
  · rw [exec_repeatForm s hi, stringRepeat] at h
    cases hloop : repeatLoop f.op f.w f.ovr f.kind s.cx.toNat s with
    | ok u =>
      rw [hloop] at h
      exact unchanged_done (unchanged_repeatLoop hloop) h
    | error c =>
      rw [hloop] at h
      exact absurd hf (raise_marks h)

end Sys2Proof.Machine
end

section
/-! Which instructions write the flags AF, TF, IF and DF and the segment registers (10_state.md R37, R42). -/

namespace Sys2Proof.Machine

/-! ## The destinations that are no segment register -/

theorem operandWrites_operandOf_sregs (w : Width) (e : RM) (s : State) : (operandWrites w (operandOf e s) s).sregs = [] := by
  cases e <;> rfl

theorem binaryForm_dst_sregs {i : Instr} {s : State} {f : BinaryForm} (h : binaryForm i s = some f) :
    (operandWrites f.w f.dst s).sregs = [] := by
  cases i <;> cases h <;> first | rfl | exact operandWrites_operandOf_sregs ..

theorem unaryForm_dst_sregs {i : Instr} {s : State} {f : UnaryForm} (h : unaryForm i s = some f) :
    (operandWrites f.w f.dst s).sregs = [] := by
  cases i <;> cases h <;> first | rfl | exact operandWrites_operandOf_sregs ..

theorem shiftForm_dst_sregs {i : Instr} {s : State} {f : ShiftForm} (h : shiftForm i s = some f) :
    (operandWrites f.w f.dst s).sregs = [] := by
  cases i <;> cases h <;> first | rfl | exact operandWrites_operandOf_sregs ..

/-- A MOV that writes a segment register is `MOV Sw, Ew`. -/
theorem moveForm_dst_sregs {i : Instr} {s : State} {f : PairForm} (h : moveForm i s = some f) :
    (operandWrites f.w f.dst s).sregs = [] ∨ ∃ r e, i = .movSwEw r e ∧ (operandWrites f.w f.dst s).sregs = [r] := by
  cases i
  case movSwEw r e => cases h; exact .inr ⟨r, e, rfl, rfl⟩
  all_goals cases h <;> first | exact .inl rfl | exact .inl (operandWrites_operandOf_sregs ..)

theorem popForm_sregs {i : Instr} {s : State} {op : Operand} (h : popForm i s = some op) :
    (operandWrites .w16 op s).sregs = [] ∨ ∃ r, r ≠ .cs ∧ op = .seg r ∧ (operandWrites .w16 op s).sregs = [r] := by
  cases i <;> cases h <;>
    first
    | exact .inl rfl
    | exact .inl (operandWrites_operandOf_sregs ..)
    | exact .inr ⟨_, by decide, rfl, rfl⟩

theorem farLoadForm_seg {i : Instr} {f : FarLoadForm} (h : farLoadForm i = some f) : f.seg ≠ .cs := by
  cases i <;> cases h <;> nofun

/-! ## The writers -/

/-- What an instruction that is no writer of them leaves of the system state, `x` being the places it writes. -/
structure SystemWrites (i : Instr) (s : State) (x : Writes) : Prop where
  af : .AF ∈ x.flags → i ∈ [Instr.sahf, .popf, .iret]
  tf : .TF ∈ x.flags → interruptVector i ≠ none ∨ i ∈ [Instr.popf, .iret]
  intf : .IF ∈ x.flags → interruptVector i ≠ none ∨ i ∈ [Instr.cli, .sti, .popf, .iret]
  df : .DF ∈ x.flags → i ∈ [Instr.cld, .std, .popf, .iret]
  cs : .cs ∈ x.sregs →
    interruptVector i ≠ none ∨ i ∈ [Instr.iret, .retf] ∨ (∃ n, i = .retfIw n) ∨ (∃ a b, i = .jmpFar a b ∨ i = .callFar a b) ∨
      ∃ m, i = .jmpMp m ∨ i = .callMp m
  sregs : ∀ r, r ≠ .cs → r ∈ x.sregs →
    (∃ e, i = .movSwEw r e) ∨ (∃ f, farLoadForm i = some f ∧ f.seg = r) ∨ popForm i s = some (.seg r)

/-- An instruction that writes arithmetic flags and no segment register. -/
theorem systemWrites_plain {i : Instr} {s : State} {x : Writes} (hflags : ∀ n ∈ x.flags, n ∈ arithFlags)
    (hsregs : x.sregs = []) : SystemWrites i s x where
  af h := absurd (hflags _ h) (by decide)
  tf h := absurd (hflags _ h) (by decide)
  intf h := absurd (hflags _ h) (by decide)
  df h := absurd (hflags _ h) (by decide)
  cs h := by rw [hsregs] at h; cases h
  sregs r _ h := by rw [hsregs] at h; cases h

/-- An instruction that writes arithmetic flags and CS. -/
theorem systemWrites_cs {i : Instr} {s : State} {x : Writes} (hflags : ∀ n ∈ x.flags, n ∈ arithFlags)
    (hsregs : x.sregs = [.cs])
    (hcs : i ∈ [Instr.iret, .retf] ∨ (∃ n, i = .retfIw n) ∨ (∃ a b, i = .jmpFar a b ∨ i = .callFar a b) ∨
      ∃ m, i = .jmpMp m ∨ i = .callMp m) : SystemWrites i s x where
  af h := absurd (hflags _ h) (by decide)
  tf h := absurd (hflags _ h) (by decide)
  intf h := absurd (hflags _ h) (by decide)
  df h := absurd (hflags _ h) (by decide)
  cs _ := .inr hcs
  sregs r hr h := by rw [hsregs] at h; exact absurd (List.mem_singleton.mp h) hr

/-- A transfer into a segment register other than CS. -/
theorem systemWrites_sreg {i : Instr} {s : State} {x : Writes} {q : SReg} (hflags : x.flags = []) (hsregs : x.sregs = [q])
    (hq : q ≠ .cs)
    (hwriter : (∃ e, i = .movSwEw q e) ∨ (∃ f, farLoadForm i = some f ∧ f.seg = q) ∨ popForm i s = some (.seg q)) :
    SystemWrites i s x where
  af h := by rw [hflags] at h; cases h
  tf h := by rw [hflags] at h; cases h
  intf h := by rw [hflags] at h; cases h
  df h := by rw [hflags] at h; cases h
  cs h := by rw [hsregs] at h; exact absurd (List.mem_singleton.mp h).symm hq
  sregs r _ h := by rw [hsregs] at h; cases List.mem_singleton.mp h; exact hwriter

/-- A transfer into an operand: a segment register it writes is one of its own. -/
theorem systemWrites_transfer {i : Instr} {s : State} {x : Writes} (hflags : x.flags = [])
    (hsregs : x.sregs = [] ∨ ∃ q, q ≠ .cs ∧ x.sregs = [q] ∧
      ((∃ e, i = .movSwEw q e) ∨ (∃ f, farLoadForm i = some f ∧ f.seg = q) ∨ popForm i s = some (.seg q))) :
    SystemWrites i s x := by
  obtain hnone | ⟨q, hq, hsregs, hwriter⟩ := hsregs
  · exact systemWrites_plain (by rw [hflags]; nofun) hnone
  · exact systemWrites_sreg hflags hsregs hq hwriter

theorem isShift_flags_subset (op : ShiftOp) :
    ∀ n ∈ (if op.isShift then [FlagName.CF, .OF, .SF, .ZF, .PF] else [.CF, .OF]), n ∈ arithFlags := by
  cases op <;> decide

theorem unaryFlags_subset (op : UnOp) (p : Params) : ∀ n ∈ unaryFlags op p, n ∈ arithFlags := by
  unfold unaryFlags
  cases op <;> cases p.incDecCf <;> decide

theorem elementWrites_flags_subset (f : StringForm) (s : State) : ∀ n ∈ (elementWrites f s).flags, n ∈ arithFlags := by
  unfold elementWrites
  cases f.op <;> simp

/-- The flags and the segment registers from `s` to `t`, `x` being the places written. -/
def SystemFrame (x : Writes) (s t : State) : Prop :=
  (∀ n, n ∉ x.flags → t.flags.get n = s.flags.get n) ∧ ∀ q, q ∉ x.sregs → t.sreg.get q = s.sreg.get q

theorem Unchanged.systemFrame {x : Writes} {s t : State} (h : Unchanged x s t) : SystemFrame x s t := ⟨h.flags, h.sregs⟩

/-- Every well-formed instruction that completes leaves the system state to its writers. -/
theorem exec_systemFrame {i : Instr} {s t : State} (hwf : i.wf = true) (h : exec i s = .next t) (hf : t.fault = none)
    (hn : ∀ n, interruptVector i = some n → n ∉ s.params.hostInt) : ∃ x, SystemFrame x s t ∧ SystemWrites i s x := by
  obtain ⟨hbinary, htest, hunary, hmulDiv, hcbw, hcwde, hcwd, hcdq, hshift⟩ := arithmeticFrame i s t h hf
  obtain ⟨hcarry, hdir, hint, hlahf, hsahf, hpushf, hpopf, hshort, hjcxz, hloop, hjump, hjumpFar, hcall, hcallFar, hret,
    hretf, hiret, hvector, hhlt⟩ := controlFrame i s t h hf
  obtain ⟨hmove, hexchange, hnop, hlea, hfarLoad, hxlat, hpush, hpop⟩ := transferFrame i s t h hf
  obtain ⟨hstring, hrepeat⟩ := stringFrame i s t h hf
  have hplain {x : Writes} (hx : Unchanged x s t) (hflags : ∀ n ∈ x.flags, n ∈ arithFlags) (hsregs : x.sregs = []) :
      ∃ x, SystemFrame x s t ∧ SystemWrites i s x := ⟨x, hx.systemFrame, systemWrites_plain hflags hsregs⟩
  cases family s i with
  | binary hi =>
    refine hplain (hbinary _ hi) ?_ ?_
    · split <;> exact fun _ h => h
    · split
      · rfl
      · exact binaryForm_dst_sregs hi
  | test hi => exact hplain (htest _ hi) (fun _ h => h) rfl
  | unary hi => exact hplain (hunary _ hi) (unaryFlags_subset _ _) (unaryForm_dst_sregs hi)
  | mulDiv hi => exact hplain (hmulDiv _ hi) (by dsimp only; split <;> decide) rfl
  | shift hi => exact hplain (hshift _ hi) (isShift_flags_subset _) (shiftForm_dst_sregs hi)
  | string hi => exact hplain (hstring _ hi) (elementWrites_flags_subset _ _) (elementWrites_sregs ..)
  | repeated hi => exact hplain (hrepeat _ hi) (elementWrites_flags_subset _ _) (elementWrites_sregs ..)
  | move hi =>
    refine ⟨_, (hmove _ hi).systemFrame, systemWrites_transfer rfl ((moveForm_dst_sregs hi).imp_right ?_)⟩
    rintro ⟨r, e, rfl, hr⟩
    refine ⟨r, ?_, hr, .inl ⟨e, rfl⟩⟩
    rintro rfl
    simp [Instr.wf] at hwf
  | exchange hi => exact hplain (hexchange _ hi) nofun rfl
  | farLoad hi =>
    exact ⟨_, (hfarLoad _ hi).systemFrame, systemWrites_sreg rfl rfl (farLoadForm_seg hi) (.inr (.inl ⟨_, hi, rfl⟩))⟩
  | push hi => exact hplain (hpush _ hi) nofun rfl
  | pop hi =>
    refine ⟨_, (hpop _ hi).systemFrame, systemWrites_transfer rfl ((popForm_sregs hi).imp_right ?_)⟩
    rintro ⟨r, hcs, rfl, hr⟩
    exact ⟨r, hcs, hr, .inr (.inr hi)⟩
  | shortJump hi => exact hplain (hshort (by rw [hi]; nofun)) nofun rfl
  | interrupt hi =>
    have hvec := Option.ne_none_iff_exists'.mpr ⟨_, hi⟩
    exact ⟨_, (hvector _ hi (hn _ hi)).systemFrame, ⟨by simp, fun _ => .inl hvec, fun _ => .inl hvec, by simp,
      fun _ => .inl hvec, fun r hr h => absurd (List.mem_singleton.mp h) hr⟩⟩
  | prefixUnit hi =>
    rw [exec_prefix i _ s hi] at h
    cases h
    exact ⟨{}, ⟨fun _ _ => rfl, fun _ _ => rfl⟩, systemWrites_plain nofun rfl⟩
  | cbw => exact hplain (hcbw rfl) nofun rfl
  | cwde => exact hplain (hcwde rfl) nofun rfl
  | cwd => exact hplain (hcwd rfl) nofun rfl
  | cdq => exact hplain (hcdq rfl) nofun rfl
  | clc => exact hplain (hcarry (.inl rfl)) (by decide) rfl
  | stc => exact hplain (hcarry (.inr (.inl rfl))) (by decide) rfl
  | cmc => exact hplain (hcarry (.inr (.inr rfl))) (by decide) rfl
  | cld => exact ⟨_, (hdir (.inl rfl)).systemFrame, ⟨by simp, by simp, by simp, by simp, by simp, by simp⟩⟩
  | std => exact ⟨_, (hdir (.inr rfl)).systemFrame, ⟨by simp, by simp, by simp, by simp, by simp, by simp⟩⟩
  | cli => exact ⟨_, (hint (.inl rfl)).systemFrame, ⟨by simp, by simp, by simp, by simp, by simp, by simp⟩⟩
  | sti => exact ⟨_, (hint (.inr rfl)).systemFrame, ⟨by simp, by simp, by simp, by simp, by simp, by simp⟩⟩
  | lahf => exact hplain (hlahf rfl) nofun rfl
  | sahf =>
    exact ⟨_, (hsahf rfl).systemFrame, ⟨by simp, by simp [sahfFlags], by simp [sahfFlags], by simp [sahfFlags], by simp,
      by simp⟩⟩
  | pushf => exact hplain (hpushf rfl) nofun rfl
  | popf => exact ⟨_, (hpopf rfl).systemFrame, ⟨by simp, by simp, by simp, by simp, by simp, by simp⟩⟩
  | jcxz d => exact hplain (hjcxz d rfl) nofun rfl
  | loop d => exact hplain (hloop d (.inl rfl)) nofun rfl
  | loope d => exact hplain (hloop d (.inr (.inl rfl))) nofun rfl
  | loopne d => exact hplain (hloop d (.inr (.inr rfl))) nofun rfl
  | jmpRel8 d => exact hplain (hjump (.inl ⟨d, rfl⟩)) nofun rfl
  | jmpRel16 d => exact hplain (hjump (.inr (.inl ⟨d, rfl⟩))) nofun rfl
  | jmpEv e => exact hplain (hjump (.inr (.inr ⟨e, rfl⟩))) nofun rfl
  | jmpFar a b => exact ⟨_, (hjumpFar (.inl ⟨a, b, rfl⟩)).systemFrame, systemWrites_cs nofun rfl (by simp)⟩
  | jmpMp m => exact ⟨_, (hjumpFar (.inr ⟨m, rfl⟩)).systemFrame, systemWrites_cs nofun rfl (by simp)⟩
  | callRel16 d => exact hplain (hcall (.inl ⟨d, rfl⟩)) nofun rfl
  | callEv e => exact hplain (hcall (.inr ⟨e, rfl⟩)) nofun rfl
  | callFar a b => exact ⟨_, (hcallFar (.inl ⟨a, b, rfl⟩)).systemFrame, systemWrites_cs nofun rfl (by simp)⟩
  | callMp m => exact ⟨_, (hcallFar (.inr ⟨m, rfl⟩)).systemFrame, systemWrites_cs nofun rfl (by simp)⟩
  | ret => exact hplain (hret (.inl rfl)) nofun rfl
  | retIw n => exact hplain (hret (.inr ⟨n, rfl⟩)) nofun rfl
  | retf => exact ⟨_, (hretf (.inl rfl)).systemFrame, systemWrites_cs nofun rfl (by simp)⟩
  | retfIw n => exact ⟨_, (hretf (.inr ⟨n, rfl⟩)).systemFrame, systemWrites_cs nofun rfl (by simp)⟩
  | iret =>
    exact ⟨_, (hiret rfl).systemFrame, ⟨by simp, by simp, by simp, by simp, by simp,
      fun r hr h => absurd (List.mem_singleton.mp h) hr⟩⟩
  | hlt => exact ⟨{}, (hhlt rfl).systemFrame, systemWrites_plain nofun rfl⟩
  | nop o => exact hplain (hnop o rfl) nofun rfl
  | lea o g m => exact hplain (hlea o g m rfl) nofun rfl
  | xlat o => exact hplain (hxlat o rfl) nofun rfl

/-- Settles O58. -/
theorem systemStateWriters : Obligations.SystemStateWriters := by
  intro i s t hwf h hf hn
  obtain ⟨x, ⟨hflags, hsregs⟩, hw⟩ := exec_systemFrame hwf h hf hn
  have hflag {n : FlagName} (hne : t.flags.get n ≠ s.flags.get n) : n ∈ x.flags := by
    exact Classical.byContradiction fun hnot => hne (hflags n hnot)
  have hsreg {r : SReg} (hne : t.sreg.get r ≠ s.sreg.get r) : r ∈ x.sregs := by
    exact Classical.byContradiction fun hnot => hne (hsregs r hnot)
  exact ⟨fun hne => hw.af (hflag hne), fun hne => hw.tf (hflag hne), fun hne => hw.intf (hflag hne),
    fun hne => hw.df (hflag hne), fun hne => hw.cs (hsreg hne), fun r hr hne => hw.sregs r hr (hsreg hne)⟩

end Sys2Proof.Machine
end

section
/-! The faults of memory accesses (20_memory.md R74, 60_exceptions.md R601-R604): the first access outside memory ends the
instruction with its record, and before any write nothing else changes. -/

namespace Sys2Proof.Machine

/-! ## The failing access -/

theorem push16_error {v : Word} {s : State} (h : ¬ inMemory (pushAddr s 1) 2 s) :
    push16 v s = .error (.memoryFault (pushAddr s 1) 2 .write) := by
  rw [push16, ← pushAddr_one, memWrite_error .w16 _ v s h, Width.bytes]

theorem pop16_error {s : State} (h : ¬ inMemory (popAddr s 0) 2 s) :
    pop16 s = .error (.memoryFault (popAddr s 0) 2 .read) := by
  rw [pop16, ← popAddr_zero, memRead_error .w16 _ s h, Width.bytes]

theorem readFarPointer_error_offset {w : Width} {seg : SReg} {off : Word} {s : State}
    (h : ¬ inMemory (s.addr seg off) w.bytes s) :
    readFarPointer w seg off s = .error (.memoryFault (s.addr seg off) w.bytes .read) := by
  rw [readFarPointer, memRead_error w _ s h]

theorem readFarPointer_error_selector {w : Width} {seg : SReg} {off : Word} {s : State}
    (hoff : inMemory (s.addr seg off) w.bytes s) (hsel : ¬ inMemory (s.addr seg (off + BitVec.ofNat 16 w.bytes)) 2 s) :
    readFarPointer w seg off s = .error (.memoryFault (s.addr seg (off + BitVec.ofNat 16 w.bytes)) 2 .read) := by
  simp only [readFarPointer, memRead_ok w _ s hoff, memRead_error .w16 _ s hsel, Width.bytes]

/-- A read fault before any write. -/
theorem raise_read (p n : Nat) (s : State) :
    raise (.memoryFault p n .read) [] s = .next (faultState (.memoryFault p n .read) s) := raise_nothing _ _ rfl

theorem orRaise_readOp_error {w : Width} {op : Operand} {s : State} {k : BitVec w.bits → Result}
    (h : ¬ accessible w op s) : orRaise s [] (readOp w op s) k = .next (readFaulted w op s) := by
  cases op with
  | mem seg off => rw [readOp, memRead_error w _ s h]; exact raise_read _ _ s
  | reg | imm | seg => exact absurd trivial h

theorem orRaise_pop16_error {s : State} {k : Word × State → Result} (h : ¬ inMemory (popAddr s 0) 2 s) :
    orRaise s [] (pop16 s) k = .next (faultState (.memoryFault (popAddr s 0) 2 .read) s) := by
  rw [pop16_error h]; exact raise_read _ _ s

theorem orRaise_readFarPointer_error {w : Width} {seg : SReg} {off : Word} {s : State} {k : BitVec w.bits × Word → Result} :
    (¬ inMemory (s.addr seg off) w.bytes s →
      orRaise s [] (readFarPointer w seg off s) k = .next (faultState (.memoryFault (s.addr seg off) w.bytes .read) s)) ∧
    (inMemory (s.addr seg off) w.bytes s → ¬ inMemory (s.addr seg (off + BitVec.ofNat 16 w.bytes)) 2 s →
      orRaise s [] (readFarPointer w seg off s) k =
        .next (faultState (.memoryFault (s.addr seg (off + BitVec.ofNat 16 w.bytes)) 2 .read) s)) := by
  refine ⟨fun h => ?_, fun hoff hsel => ?_⟩
  · rw [readFarPointer_error_offset h]; exact raise_read _ _ s
  · rw [readFarPointer_error_selector hoff hsel]; exact raise_read _ _ s

/-! ## String elements -/

/-- The instruction runs an iteration of `f` first. -/
def runsElement (i : Instr) (f : StringForm) (s : State) : Prop :=
  stringForm i = some f ∨ (readReg .w16 .cx s ≠ 0#16 ∧ ∃ g, repeatForm i = some g ∧ g.toStringForm = f)

theorem exec_elementFault {i : Instr} {f : StringForm} {s : State} (hi : runsElement i f s) (h : ¬ elementInMemory f s) :
    exec i s = raise (elementFault f s) [] s := by
  obtain hi | ⟨hcx, g, hi, rfl⟩ := hi
  · rw [exec_stringForm s hi, stringOnce, stringIteration_error h, orRaise_error]
  · obtain ⟨n, hn⟩ : ∃ n, (readReg .w16 .cx s).toNat = n + 1 :=
      Nat.exists_eq_succ_of_ne_zero fun h0 => hcx (BitVec.eq_of_toNat_eq h0)
    rw [exec_repeatForm s hi, stringRepeat, State.cx, hn, repeatLoop_error g.kind n h]
    simp [State.cx, repeatPlaces]

theorem elementFault_source {f : StringForm} {s : State} (huse : usesSource f.op = true)
    (h : ¬ inMemory (stringSource f.ovr s) f.w.bytes s) :
    ¬ elementInMemory f s ∧ elementFault f s = .memoryFault (stringSource f.ovr s) f.w.bytes .read :=
  ⟨fun he => h (he.1 huse), if_pos ⟨huse, h⟩⟩

theorem elementFault_dest {f : StringForm} {s : State} (huse : usesDest f.op = true)
    (hsrc : usesSource f.op = true → inMemory (stringSource f.ovr s) f.w.bytes s)
    (h : ¬ inMemory (stringDest s) f.w.bytes s) :
    ¬ elementInMemory f s ∧ elementFault f s =
      .memoryFault (stringDest s) f.w.bytes (if f.op = .movs ∨ f.op = .stos then .write else .read) :=
  ⟨fun he => h (he.2 huse), if_neg fun hc => hc.2 (hsrc hc.1)⟩

/-! ## Reads that come before any write -/

/-- Settles O19. -/
theorem firstReadFault : Obligations.FirstReadFault := by
  intro i s
  refine ⟨fun f hi h => ?_, fun f hi hdst h => ?_, fun f hi h => ?_, fun f hi h => ?_, fun f hi h => ?_, fun f hi h => ?_,
    fun f hi h => ?_, fun f hi h => ?_, fun op hi h => ?_, ?_, ?_, fun f hi => ?_, ?_, fun f hi => ?_, fun hi h => ?_⟩
  · rw [exec_binaryForm hi]; exact orRaise_readOp_error h
  · rw [exec_binaryForm hi, binaryAlu, readOp_ok _ _ _ hdst, orRaise_ok]; exact orRaise_readOp_error h
  · rw [exec_testForm hi]; exact orRaise_readOp_error h
  · rw [exec_unaryForm hi]; exact orRaise_readOp_error h
  · rw [exec_mulDivForm hi, mulDivMeaning]
    cases f.op <;> exact orRaise_readOp_error h
  · rw [exec_shiftForm hi]; exact orRaise_readOp_error h
  · rw [exec_moveForm hi]; exact orRaise_readOp_error h
  · rw [exec_exchangeForm hi]; exact orRaise_readOp_error h
  · rw [exec_pushForm hi]; exact orRaise_readOp_error h
  · rintro e (rfl | rfl) h
    · exact orRaise_readOp_error h
    · exact orRaise_readOp_error h
  · rintro m (rfl | rfl)
    · exact orRaise_readFarPointer_error (w := .w16)
    · exact orRaise_readFarPointer_error (w := .w16)
  · rw [exec_farLoadForm s hi]; exact orRaise_readFarPointer_error
  · rintro ovr rfl h
    exact orRaise_readOp_error (w := .w8) (op := .mem (ovr.getD .ds) _) h
  · refine ⟨fun huse h => ?_, fun hop hsrc h => ?_, fun hop h => ?_⟩
    · obtain ⟨hmem, hc⟩ := elementFault_source huse h
      rw [exec_elementFault hi hmem, hc]; exact raise_read _ _ s
    · obtain ⟨hmem, hc⟩ := elementFault_dest (by rw [hop]; rfl) (fun _ => hsrc) h
      rw [exec_elementFault hi hmem, hc, hop]; exact raise_read _ _ s
    · obtain ⟨hmem, hc⟩ := elementFault_dest (f := f) (by rw [hop]; rfl) (by rw [hop]; nofun) h
      rw [exec_elementFault hi hmem, hc, hop]; exact raise_read _ _ s
  · obtain hi | hi | ⟨n, rfl | rfl⟩ := hi
    · obtain ⟨op, hop⟩ := Option.ne_none_iff_exists'.mp hi
      rw [exec_popForm hop]; exact orRaise_pop16_error h
    · simp only [List.mem_cons, List.not_mem_nil, or_false] at hi
      obtain rfl | rfl | rfl | rfl := hi <;> exact orRaise_pop16_error h
    · exact orRaise_pop16_error h
    · exact orRaise_pop16_error h

/-! ## Stores, the stack and the vector table -/

/-- The meaning ends in this fault, recorded at the start's CS and IP. -/
def FaultsWith (c : FaultInfo) (s : State) (r : Result) : Prop :=
  ∃ t, r = .next t ∧ t.fault = some ⟨c, s.sreg.cs, s.ip⟩ ∧ t.ip = s.ip

theorem faultsWith_raise (c : FaultInfo) (ps : List Place) (s : State) : FaultsWith c s (raise c ps s) :=
  ⟨_, rfl, rfl, spoil_ip _ s⟩

theorem faultsWith_pushValue {v : Word} {s : State} (h : ¬ inMemory (pushAddr s 1) 2 s) :
    FaultsWith (.memoryFault (pushAddr s 1) 2 .write) s (pushValue v s) := by
  rw [pushValue, push16_error h]; exact faultsWith_raise ..

theorem faultsWith_callNear {target : Word} {s : State} (h : ¬ inMemory (pushAddr s 1) 2 s) :
    FaultsWith (.memoryFault (pushAddr s 1) 2 .write) s (callNear target s) := by
  rw [callNear, push16_error h]; exact faultsWith_raise ..

theorem faultsWith_callFarTo (sel off : Word) (s : State) :
    (¬ inMemory (pushAddr s 1) 2 s → FaultsWith (.memoryFault (pushAddr s 1) 2 .write) s (callFarTo sel off s)) ∧
    (inMemory (pushAddr s 1) 2 s → ¬ inMemory (pushAddr s 2) 2 s →
      FaultsWith (.memoryFault (pushAddr s 2) 2 .write) s (callFarTo sel off s)) := by
  refine ⟨fun h => ?_, fun h1 h2 => ?_⟩
  · rw [callFarTo, push16_error h]; exact faultsWith_raise ..
  · rw [callFarTo, push16_ok _ s h1, orRaise_ok, push16_error (by simpa using h2), pushAddr_pushed]
    exact faultsWith_raise ..

theorem faultsWith_pop16 {s : State} {ps : List Place} {k : Word × State → Result} (h : ¬ inMemory (popAddr s 0) 2 s) :
    FaultsWith (.memoryFault (popAddr s 0) 2 .read) s (orRaise s ps (pop16 s) k) := by
  rw [pop16_error h]; exact faultsWith_raise ..

/-- The second pop fails. -/
theorem faultsWith_pop16_popped {s : State} {ps : List Place} {k : Word × State → Result}
    (h : ¬ inMemory (popAddr s 1) 2 s) :
    FaultsWith (.memoryFault (popAddr s 1) 2 .read) s (orRaise s ps (pop16 (popped s)) k) := by
  rw [pop16_error (by simpa using h), popAddr_popped]; exact faultsWith_raise ..

theorem faultsWith_returnFar (n : Word) (s : State) :
    (¬ inMemory (popAddr s 0) 2 s → FaultsWith (.memoryFault (popAddr s 0) 2 .read) s (returnFar n s)) ∧
    (inMemory (popAddr s 0) 2 s → ¬ inMemory (popAddr s 1) 2 s →
      FaultsWith (.memoryFault (popAddr s 1) 2 .read) s (returnFar n s)) := by
  refine ⟨faultsWith_pop16, fun h0 h1 => ?_⟩
  rw [returnFar, pop16_popped h0, orRaise_ok]
  exact faultsWith_pop16_popped h1

theorem faultsWith_interruptReturn (s : State) :
    (¬ inMemory (popAddr s 0) 2 s → FaultsWith (.memoryFault (popAddr s 0) 2 .read) s (interruptReturn s)) ∧
    (inMemory (popAddr s 0) 2 s → ¬ inMemory (popAddr s 1) 2 s →
      FaultsWith (.memoryFault (popAddr s 1) 2 .read) s (interruptReturn s)) ∧
    (inMemory (popAddr s 0) 2 s → inMemory (popAddr s 1) 2 s → ¬ inMemory (popAddr s 2) 2 s →
      FaultsWith (.memoryFault (popAddr s 2) 2 .read) s (interruptReturn s)) := by
  refine ⟨faultsWith_pop16, fun h0 h1 => ?_, fun h0 h1 h2 => ?_⟩
  · rw [interruptReturn, pop16_popped h0, orRaise_ok]
    exact faultsWith_pop16_popped h1
  · rw [interruptReturn, pop16_popped h0, orRaise_ok]
    dsimp only
    rw [pop16_popped (by simpa using h1), orRaise_ok]
    dsimp only
    rw [pop16_error (by simpa using h2), popAddr_popped, popAddr_popped]
    exact faultsWith_raise ..

/-- The five accesses of the entry of a handler, each reached when those before it are inside memory. -/
theorem faultsWith_enterVector (n : Byte) (s : State) :
    (¬ inMemory (pushAddr s 1) 2 s → FaultsWith (.memoryFault (pushAddr s 1) 2 .write) s (enterVector n s)) ∧
    (inMemory (pushAddr s 1) 2 s → ¬ inMemory (pushAddr s 2) 2 s →
      FaultsWith (.memoryFault (pushAddr s 2) 2 .write) s (enterVector n s)) ∧
    (inMemory (pushAddr s 1) 2 s → inMemory (pushAddr s 2) 2 s → ¬ inMemory (pushAddr s 3) 2 s →
      FaultsWith (.memoryFault (pushAddr s 3) 2 .write) s (enterVector n s)) ∧
    (inMemory (pushAddr s 1) 2 s → inMemory (pushAddr s 2) 2 s → inMemory (pushAddr s 3) 2 s →
      (¬ inMemory (4 * n.toNat) 2 s → FaultsWith (.memoryFault (4 * n.toNat) 2 .read) s (enterVector n s)) ∧
      (inMemory (4 * n.toNat) 2 s → ¬ inMemory (4 * n.toNat + 2) 2 s →
        FaultsWith (.memoryFault (4 * n.toNat + 2) 2 .read) s (enterVector n s))) := by
  have hmem (p : Nat) (u : State) (hu : u.params = s.params) : inMemory p 2 u ↔ inMemory p 2 s := by
    rw [inMemory, inMemory, hu]
  refine ⟨fun h => ?_, fun h1 h => ?_, fun h1 h2 h => ?_, fun h1 h2 h3 => ⟨fun h => ?_, fun h4 h => ?_⟩⟩
  · rw [enterVector, push16_error h]; exact faultsWith_raise ..
  · simp only [enterVector, push16_ok _ s h1, orRaise_ok]
    rw [push16_error (by simpa [pushAddr_setFlags] using h), pushAddr_setFlags, pushAddr_pushed]
    exact faultsWith_raise ..
  · simp only [enterVector, push16_ok _ s h1, orRaise_ok]
    rw [push16_ok _ _ (by simpa [pushAddr_setFlags] using h2), orRaise_ok,
      push16_error (by simpa [pushAddr_setFlags] using h), pushAddr_pushed, pushAddr_setFlags, pushAddr_pushed]
    exact faultsWith_raise ..
  · simp only [enterVector, push16_ok _ s h1, orRaise_ok]
    rw [push16_ok _ _ (by simpa [pushAddr_setFlags] using h2), orRaise_ok,
      push16_ok _ _ (by simpa [pushAddr_setFlags] using h3), orRaise_ok,
      memRead_error .w16 _ _ (mt (hmem _ _ (by simp)).mp h)]
    exact faultsWith_raise ..
  · simp only [enterVector, push16_ok _ s h1, orRaise_ok]
    rw [push16_ok _ _ (by simpa [pushAddr_setFlags] using h2), orRaise_ok,
      push16_ok _ _ (by simpa [pushAddr_setFlags] using h3), orRaise_ok,
      memRead_ok .w16 _ _ ((hmem _ _ (by simp)).mpr h4), orRaise_ok,
      memRead_error .w16 _ _ (mt (hmem _ _ (by simp)).mp h)]
    exact faultsWith_raise ..

end Sys2Proof.Machine
end

section
/-! Where a repetition faults: at the first element outside memory that it reaches (46_string.md R470). -/

namespace Sys2Proof.Machine

/-! ## The state after some rounds -/

theorem rounds_params (f : StringForm) (j : Nat) (s : State) : (rounds f j s).params = s.params := by
  induction j generalizing s with
  | zero => rfl
  | succ j ih => rw [rounds, ih, rounded_params]

theorem inMemory_rounds (f : StringForm) (j : Nat) (s : State) (p n : Nat) :
    inMemory p n (rounds f j s) ↔ inMemory p n s := by
  rw [inMemory, inMemory, rounds_params]

/-- The next element after `j` rounds is the j-th from the start. -/
theorem stringSource_rounds {f : StringForm} (h : usesSource f.op = true) (j : Nat) (s : State) :
    stringSource f.ovr (rounds f j s) = sourceElement f.w f.ovr s j := by
  have hahead (j l : Nat) (s : State) :
      sourceElement f.w f.ovr (rounds f j s) l = sourceElement f.w f.ovr s (l + j) := by
    induction j generalizing s with
    | zero => rfl
    | succ j ih => rw [rounds, ih, sourceElement_rounded h]; rfl
  rw [← sourceElement_zero f.w, hahead, Nat.zero_add]

theorem stringDest_rounds {f : StringForm} (h : usesDest f.op = true) (j : Nat) (s : State) :
    stringDest (rounds f j s) = destElement f.w s j := by
  have hahead (j l : Nat) (s : State) : destElement f.w (rounds f j s) l = destElement f.w s (l + j) := by
    induction j generalizing s with
    | zero => rfl
    | succ j ih => rw [rounds, ih, destElement_rounded h]; rfl
  rw [← destElement_zero f.w, hahead, Nat.zero_add]

/-! ## Where the loop stops -/

/-- No round before round `j` ends the repetition by its ZF test. -/
def reaches (f : RepeatForm) (s : State) (j : Nat) : Prop :=
  ∀ l < j, ¬ repeatEnds f.kind (iterated f.toStringForm (rounds f.toStringForm l s)).flags

/-- The loop faults in the first round that it reaches and whose elements are not in memory. -/
theorem repeatLoop_faults {f : RepeatForm} {n j : Nat} {s : State} (hj : j < n) (hbefore : elementsInMemory f.toStringForm s j)
    (hreaches : reaches f s j) (h : ¬ elementInMemory f.toStringForm (rounds f.toStringForm j s)) :
    repeatLoop f.op f.w f.ovr f.kind n s =
      .error (elementFault f.toStringForm (rounds f.toStringForm j s), rounds f.toStringForm j s) := by
  induction j generalizing n s with
  | zero =>
    obtain ⟨n, rfl⟩ := Nat.exists_eq_succ_of_ne_zero (Nat.ne_zero_of_lt hj)
    exact repeatLoop_error f.kind n h
  | succ j ih =>
    obtain ⟨n, rfl⟩ := Nat.exists_eq_succ_of_ne_zero (Nat.ne_zero_of_lt hj)
    obtain ⟨hfirst, hrest⟩ := elementsInMemory_succ.mp hbefore
    have hgoes : ¬ repeatEnds f.kind (iterated f.toStringForm s).flags := hreaches 0 (by omega)
    rw [repeatLoop_succ f.kind n hfirst, if_neg (mt repeatStops_iff.mp hgoes)]
    exact ih (Nat.lt_of_succ_lt_succ hj) hrest (fun l hl => hreaches (l + 1) (by omega)) h

/-- A loop that faults has completed the rounds before. -/
theorem repeatLoop_error_inv {f : RepeatForm} {n : Nat} {s u : State} {c : FaultInfo}
    (h : repeatLoop f.op f.w f.ovr f.kind n s = .error (c, u)) :
    ∃ j < n, elementsInMemory f.toStringForm s j ∧ ¬ elementsInMemory f.toStringForm s (j + 1) ∧
      u = rounds f.toStringForm j s ∧ c = elementFault f.toStringForm u := by
  induction n generalizing s with
  | zero => cases h
  | succ n ih =>
    by_cases hfirst : elementInMemory f.toStringForm s
    · rw [repeatLoop_succ f.kind n hfirst] at h
      split at h
      · cases h
      · obtain ⟨j, hj, hbefore, hafter, hu, hc⟩ := ih h
        exact ⟨j + 1, by omega, elementsInMemory_succ.mpr ⟨hfirst, hbefore⟩,
          fun hall => hafter (elementsInMemory_succ.mp hall).2, hu, hc⟩
    · rw [repeatLoop_error f.kind n hfirst] at h
      cases h
      exact ⟨0, by omega, elementsInMemory_zero _ _, fun hall => hfirst (elementsInMemory_succ.mp hall).1, rfl, rfl⟩

theorem faultsWith_repeat {i : Instr} {f : RepeatForm} {s : State} {j : Nat} (hi : repeatForm i = some f)
    (hj : j < (readReg .w16 .cx s).toNat) (hbefore : elementsInMemory f.toStringForm s j) (hreaches : reaches f s j)
    (h : ¬ elementInMemory f.toStringForm (rounds f.toStringForm j s)) :
    FaultsWith (elementFault f.toStringForm (rounds f.toStringForm j s)) s (exec i s) := by
  rw [exec_repeatForm s hi, stringRepeat, State.cx, repeatLoop_faults hj hbefore hreaches h]
  exact faultsWith_raise ..

/-- The source element of round `j` is not in memory. -/
theorem faultsWith_repeat_source {i : Instr} {f : RepeatForm} {s : State} {j : Nat} (hi : repeatForm i = some f)
    (hj : j < (readReg .w16 .cx s).toNat) (hbefore : elementsInMemory f.toStringForm s j) (hreaches : reaches f s j)
    (huse : usesSource f.op = true) (h : ¬ inMemory (sourceElement f.w f.ovr s j) f.w.bytes s) :
    FaultsWith (.memoryFault (sourceElement f.w f.ovr s j) f.w.bytes .read) s (exec i s) := by
  have hsrc := stringSource_rounds (f := f.toStringForm) huse j s
  obtain ⟨hmem, hc⟩ := elementFault_source (f := f.toStringForm) (s := rounds f.toStringForm j s) huse
    (by rwa [hsrc, inMemory_rounds])
  have hfault := faultsWith_repeat hi hj hbefore hreaches hmem
  rwa [hc, hsrc] at hfault

/-- The destination element of round `j` is the first that is not in memory. -/
theorem faultsWith_repeat_dest {i : Instr} {f : RepeatForm} {s : State} {j : Nat} (hi : repeatForm i = some f)
    (hj : j < (readReg .w16 .cx s).toNat) (hbefore : elementsInMemory f.toStringForm s j) (hreaches : reaches f s j)
    (huse : usesDest f.op = true)
    (hsrc : usesSource f.op = true → inMemory (sourceElement f.w f.ovr s j) f.w.bytes s)
    (h : ¬ inMemory (destElement f.w s j) f.w.bytes s) :
    FaultsWith (.memoryFault (destElement f.w s j) f.w.bytes (if f.op = .movs ∨ f.op = .stos then .write else .read)) s
      (exec i s) := by
  have hdst := stringDest_rounds (f := f.toStringForm) huse j s
  obtain ⟨hmem, hc⟩ := elementFault_dest (f := f.toStringForm) (s := rounds f.toStringForm j s) huse
    (fun hu => by rw [stringSource_rounds hu, inMemory_rounds]; exact hsrc hu) (by rwa [hdst, inMemory_rounds])
  have hfault := faultsWith_repeat hi hj hbefore hreaches hmem
  rwa [hc, hdst] at hfault

/-! ## The ZF test of CMPS and SCAS -/

theorem reaches_of_rep {f : RepeatForm} (h : f.kind = .rep) (s : State) (j : Nat) : reaches f s j := by
  intro l _ hends
  rw [h] at hends
  exact hends.elim (fun hz => nomatch hz.1) fun hz => nomatch hz.1

theorem mem_iterated_compare {f : StringForm} (h : f.op = .cmps ∨ f.op = .scas) (s : State) : (iterated f s).mem = s.mem := by
  obtain h | h := h <;> rw [iterated, h] <;> simp [stepDest, stepSource]

theorem mem_rounds_compare {f : StringForm} (h : f.op = .cmps ∨ f.op = .scas) (j : Nat) (s : State) :
    (rounds f j s).mem = s.mem := by
  induction j generalizing s with
  | zero => rfl
  | succ j ih => rw [rounds, ih, rounded_mem, mem_iterated_compare h]

theorem readReg_ax_rounds_scas {f : StringForm} (h : f.op = .scas) (j : Nat) (s : State) :
    readReg f.w .ax (rounds f j s) = readReg f.w .ax s := by
  induction j generalizing s with
  | zero => rfl
  | succ j ih =>
    rw [rounds, ih, rounded, readReg_ax_writeReg_w16 _ (by decide), iterated, h]
    exact readReg_ax_writeReg_w16 _ (by decide) _ _

/-- The operands a round of CMPS or SCAS compares are those at the start. -/
theorem iterated_rounds_ZF {f : StringForm} (h : f.op = .cmps ∨ f.op = .scas) (l : Nat) (s : State) :
    (iterated f (rounds f l s)).flags.ZF =
      (updateSUB (if f.op = .scas then readReg f.w .ax s else memValue f.w (sourceElement f.w f.ovr s l) s)
        (memValue f.w (destElement f.w s l) s) false s.flags).2.ZF := by
  have hvalue (p : Nat) : memValue f.w p (rounds f l s) = memValue f.w p s := by
    rw [memValue, memValue, mem_rounds_compare h]
  obtain h | h := h
  · rw [if_neg (by rw [h]; decide), iterated, h]
    simp only [stepDest, stepSource, writeReg_flags, State.setFlags_flags, hvalue]
    rw [stringSource_rounds (by rw [h]; rfl), stringDest_rounds (by rw [h]; rfl)]
    rfl
  · rw [if_pos h, iterated, h]
    simp only [stepDest, writeReg_flags, State.setFlags_flags, hvalue]
    rw [readReg_ax_rounds_scas h, stringDest_rounds (by rw [h]; rfl)]
    rfl

theorem repeatEnds_congr {kind : Repeat} {f g : Flags} (h : f.ZF = g.ZF) : repeatEnds kind f ↔ repeatEnds kind g := by
  rw [repeatEnds, repeatEnds, h]

/-! ## Every access -/

/-- Settles O38. -/
theorem storeAndStackFaults : Obligations.StoreAndStackFaults := by
  intro i s
  refine ⟨fun f seg off hi hdst hsrc h => ?_, fun op hi hop h => ?_, ?_, ?_, ?_, fun op hi => ⟨fun h => ?_, ?_⟩, ?_, ?_, ?_,
    fun n hi hn hof => ?_, fun f hi => ⟨fun hop h => ?_, fun hop hsrc h => ?_⟩, fun f hi j hj hbefore => ?_⟩
  · rw [exec_moveForm hi, moveOp, readOp_ok _ _ _ hsrc, orRaise_ok, hdst, writeOp, memWrite_error _ _ _ _ h]
    exact faultsWith_raise ..
  · rw [exec_pushForm hi, pushOperand, readOp_ok _ _ _ hop, orRaise_ok]
    exact faultsWith_pushValue h
  · rintro (rfl | ⟨d, rfl⟩) h
    · exact faultsWith_pushValue h
    · exact faultsWith_callNear h
  · rintro e rfl hop h
    show FaultsWith _ s (callIndirect _ s)
    rw [callIndirect, readOp_ok _ _ _ hop, orRaise_ok]
    exact faultsWith_callNear h
  · rintro (⟨a, b, rfl⟩ | ⟨m, rfl, hoff, hsel⟩)
    · exact faultsWith_callFarTo a b s
    · show (_ → FaultsWith _ s (callFarIndirect m s)) ∧ (_ → _ → FaultsWith _ s (callFarIndirect m s))
      rw [callFarIndirect, readFarPointer_ok (w := .w16) hoff hsel, orRaise_ok]
      exact faultsWith_callFarTo _ _ s
  · rw [exec_popForm hi]; exact faultsWith_pop16 h
  · rintro seg off rfl hsp h
    have haddr : (popped s).addr seg off = s.addr seg off := by simp [State.addr]
    have hwrite : ¬ inMemory ((popped s).addr seg off) 2 (popped s) := by simpa [haddr] using h
    show FaultsWith _ s (exec i s)
    rw [exec_popForm hi, popOperand, pop16_popped hsp, orRaise_ok]
    dsimp only
    rw [writeOp, memWrite_error .w16 _ _ _ hwrite, haddr]
    exact faultsWith_raise ..
  · rintro (rfl | rfl | ⟨n, rfl⟩) h
    · exact faultsWith_pop16 h
    · exact faultsWith_pop16 h
    · exact faultsWith_pop16 h
  · rintro (rfl | ⟨n, rfl⟩ | rfl)
    · exact faultsWith_returnFar _ s
    · exact faultsWith_returnFar n s
    · exact ⟨(faultsWith_interruptReturn s).1, (faultsWith_interruptReturn s).2.1⟩
  · rintro rfl; exact (faultsWith_interruptReturn s).2.2
  · dsimp only
    rw [exec_interrupt_taken hi hof, interrupt_unclaimed hn]
    exact faultsWith_enterVector n s
  · rw [destElement_zero] at h ⊢
    obtain ⟨hmem, hc⟩ := elementFault_dest (f := f) (by rw [hop]; rfl) (by rw [hop]; nofun) h
    rw [exec_elementFault (.inl hi) hmem, hc, hop]
    exact faultsWith_raise ..
  · rw [destElement_zero] at h ⊢
    rw [sourceElement_zero] at hsrc
    obtain ⟨hmem, hc⟩ := elementFault_dest (f := f) (by rw [hop]; rfl) (fun _ => hsrc) h
    rw [exec_elementFault (.inl hi) hmem, hc, hop]
    exact faultsWith_raise ..
  · have hrep (hop : f.op ≠ .cmps ∧ f.op ≠ .scas) : reaches f s j := reaches_of_rep (repeatForm_kind hi hop) s j
    have hcompare (hop : f.op = .cmps ∨ f.op = .scas)
        (hreached : ∀ l < j, ¬ repeatEnds f.kind (updateSUB
          (if f.op = .scas then readReg f.w .ax s else memValue f.w (sourceElement f.w f.ovr s l) s)
          (memValue f.w (destElement f.w s l) s) false s.flags).2) : reaches f s j := fun l hl =>
      (not_congr (repeatEnds_congr (iterated_rounds_ZF (f := f.toStringForm) hop l s))).mpr (hreached l hl)
    refine ⟨fun hop h => ?_, fun hop h => ?_, fun hop hsrc h => ?_, fun hop hreached => ⟨fun h => ?_, fun hsrc h => ?_⟩,
      fun hop hreached h => ?_⟩
    · have := faultsWith_repeat_dest hi hj hbefore (hrep (by rw [hop]; decide)) (by rw [hop]; rfl) (by rw [hop]; nofun) h
      rwa [if_pos (.inr hop)] at this
    · have huse : usesSource f.op = true := by obtain hop | hop := hop <;> rw [hop] <;> rfl
      exact faultsWith_repeat_source hi hj hbefore (hrep (by obtain hop | hop := hop <;> rw [hop] <;> decide)) huse h
    · have := faultsWith_repeat_dest hi hj hbefore (hrep (by rw [hop]; decide)) (by rw [hop]; rfl) (fun _ => hsrc) h
      rwa [if_pos (.inl hop)] at this
    · exact faultsWith_repeat_source hi hj hbefore (hcompare (.inl hop) hreached) (by rw [hop]; rfl) h
    · have := faultsWith_repeat_dest hi hj hbefore (hcompare (.inl hop) hreached) (by rw [hop]; rfl) (fun _ => hsrc) h
      rwa [if_neg (by rw [hop]; decide)] at this
    · have := faultsWith_repeat_dest hi hj hbefore (hcompare (.inr hop) hreached) (by rw [hop]; rfl) (by rw [hop]; nofun) h
      rwa [if_neg (by rw [hop]; decide)] at this

end Sys2Proof.Machine
end

section
/-! PRECISION: what a fault may change (60_exceptions.md R602, R603). A fault gives the places written before it, and the bytes of
a write that fails, any value; so it is enough to say where these places lie. -/

namespace Sys2Proof.Machine

/-! ## Places -/

/-- The place is one of those listed. -/
def Writes.covers (x : Writes) : Place → Prop
  | .reg w r => (w, r) ∈ x.regs
  | .sreg r => r ∈ x.sregs
  | .flag n => n ∈ x.flags
  | .byte p => p ∈ x.bytes

/-- All of the places are among those listed. -/
def Writes.coversAll (x : Writes) (ps : List Place) : Prop := ∀ p ∈ ps, x.covers p

theorem coversAll_nil (x : Writes) : x.coversAll [] := nofun

theorem coversAll_append {x : Writes} {ps qs : List Place} (hp : x.coversAll ps) (hq : x.coversAll qs) :
    x.coversAll (ps ++ qs) := fun p h => (List.mem_append.mp h).elim (hp p) (hq p)

theorem coversAll_bytes {x : Writes} {ps : List Nat} (h : ∀ p ∈ ps, p ∈ x.bytes) : x.coversAll (ps.map .byte) := by
  intro p hp
  obtain ⟨a, ha, rfl⟩ := List.mem_map.mp hp
  exact h a ha

theorem coversAll_flags {x : Writes} {ns : List FlagName} (h : ∀ n ∈ ns, n ∈ x.flags) : x.coversAll (ns.map .flag) := by
  intro p hp
  obtain ⟨n, hn, rfl⟩ := List.mem_map.mp hp
  exact h n hn

theorem coversAll_cons {x : Writes} {p : Place} {ps : List Place} (hp : x.covers p) (hps : x.coversAll ps) :
    x.coversAll (p :: ps) := fun _ h => (List.mem_cons.mp h).elim (fun he => he ▸ hp) (hps _)

theorem unchanged_spoilPlace {x : Writes} {p : Place} (s : State) (h : x.covers p) : Unchanged x s (spoilPlace s p) := by
  cases p with
  | reg w r => exact (unchanged_writeReg x w r _ s h).both (unchanged_draw x _)
  | sreg r => exact (unchanged_setSreg x r _ s h).both (unchanged_draw x _)
  | flag n => exact (unchanged_set x _ s h).both (unchanged_draw x _)
  | byte p =>
    refine Unchanged.both ?_ (unchanged_draw x _)
    split
    · exact ⟨fun _ _ _ => rfl, fun _ _ => rfl, fun _ _ => rfl,
        fun a ha => Memory.read_write_ne _ _ _ _ (ne_of_mem_of_not_mem h ha).symm, rfl, rfl, rfl, rfl, rfl⟩
    · exact Unchanged.same x s

theorem unchanged_spoil {x : Writes} {ps : List Place} (s : State) (h : x.coversAll ps) : Unchanged x s (spoil s ps) := by
  induction ps generalizing s with
  | nil => exact Unchanged.same x s
  | cons p ps ih =>
    exact (unchanged_spoilPlace s (h p List.mem_cons_self)).both (ih _ fun q hq => h q (List.mem_cons_of_mem _ hq))

/-! ## What a fault changes -/

/-- From `s` to the faulted `t`, at most these places change. -/
def ChangesAtMost (x : Writes) (s t : State) : Prop := t.ip = s.ip ∧ Unchanged x { s.endInstr with fault := t.fault } t

/-- The bytes a failing write may have written are listed. -/
def Writes.coversPart (x : Writes) (c : FaultInfo) : Prop := ∀ N, x.coversAll (c.partBytes N)

theorem changesAtMost_raise {x : Writes} {c : FaultInfo} {ps : List Place} {s t : State} (h : raise c ps s = .next t)
    (hps : x.coversAll ps) (hc : x.coversPart c) : ChangesAtMost x s t := by
  cases h
  have hspoil := unchanged_spoil s (coversAll_append hps (hc s.params.memSize))
  exact ⟨spoil_ip _ s, hspoil.regs, hspoil.sregs, hspoil.flags, hspoil.bytes, rfl, rfl, rfl, hspoil.halted, hspoil.params⟩

theorem coversPart_read (x : Writes) (p n : Nat) : x.coversPart (.memoryFault p n .read) := fun _ => coversAll_nil x

theorem coversPart_divideError (x : Writes) : x.coversPart .divideError := fun _ => coversAll_nil x

theorem coversPart_write {x : Writes} {p n : Nat} (h : ∀ a ∈ byteRange p n, a ∈ x.bytes) :
    x.coversPart (.memoryFault p n .write) := by
  refine fun N => coversAll_bytes fun a ha => h a ?_
  rw [mem_byteRange] at ha ⊢
  omega

/-- A meaning that ends in a fault of `s` changes at most the places. -/
def Precise (x : Writes) (s : State) (r : Result) : Prop := ∀ t, r = .next t → t.fault ≠ none → ChangesAtMost x s t

theorem precise_raise {x : Writes} {c : FaultInfo} {ps : List Place} {s : State} (hps : x.coversAll ps)
    (hc : x.coversPart c) : Precise x s (raise c ps s) := fun _ h _ => changesAtMost_raise h hps hc

theorem precise_next {x : Writes} {s u : State} (h : u.fault = none) : Precise x s (.next u) := by
  intro t ht hf
  cases ht
  exact absurd h hf

theorem precise_done {x : Writes} {s u : State} (h : u.fault = none) : Precise x s (done u) := precise_next h

/-- A step that may raise: what its fault may have changed, and what follows it. -/
theorem precise_orRaise {α : Type} {x : Writes} {s : State} {ps : List Place} {e : Except FaultInfo α} {k : α → Result}
    (herror : ∀ c, e = .error c → x.coversAll ps ∧ x.coversPart c) (hok : ∀ a, e = .ok a → Precise x s (k a)) :
    Precise x s (orRaise s ps e k) := by
  cases e with
  | ok a => exact hok a rfl
  | error c => exact precise_raise (herror c rfl).1 (herror c rfl).2

/-! ## The steps that may raise -/

theorem readOp_coversPart {w : Width} {op : Operand} {s : State} {c : FaultInfo} (x : Writes) (h : readOp w op s = .error c) :
    x.coversPart c := by
  by_cases hacc : accessible w op s
  · rw [readOp_ok w op s hacc] at h; cases h
  · cases op with
    | mem seg off => rw [readOp, memRead_error w _ s hacc] at h; cases h; exact coversPart_read _ _ _
    | reg | imm | seg => exact absurd trivial hacc

theorem writeOp_coversPart {w : Width} {op : Operand} {v : BitVec w.bits} {s : State} {c : FaultInfo} {x : Writes}
    (h : writeOp w op v s = .error c) (hx : ∀ a ∈ operandBytes w op s, a ∈ x.bytes) : x.coversPart c := by
  by_cases hacc : accessible w op s
  · rw [writeOp_ok w op v s hacc] at h; cases h
  · cases op with
    | mem seg off => rw [writeOp, memWrite_error w _ v s hacc] at h; cases h; exact coversPart_write hx
    | reg | imm | seg => exact absurd trivial hacc

theorem readFarPointer_coversPart {w : Width} {seg : SReg} {off : Word} {s : State} {c : FaultInfo} (x : Writes)
    (h : readFarPointer w seg off s = .error c) : x.coversPart c := by
  by_cases hoff : inMemory (s.addr seg off) w.bytes s
  · by_cases hsel : inMemory (s.addr seg (off + BitVec.ofNat 16 w.bytes)) 2 s
    · rw [readFarPointer_ok hoff hsel] at h; cases h
    · rw [readFarPointer_error_selector hoff hsel] at h; cases h; exact coversPart_read _ _ _
  · rw [readFarPointer_error_offset hoff] at h; cases h; exact coversPart_read _ _ _

theorem memRead_coversPart {w : Width} {p : Nat} {s : State} {c : FaultInfo} (x : Writes) (h : memRead w p s = .error c) :
    x.coversPart c := by
  by_cases hp : inMemory p w.bytes s
  · rw [memRead_ok w p s hp] at h; cases h
  · rw [memRead_error w p s hp] at h; cases h; exact coversPart_read _ _ _

/-- A pop: it fails and reads only, or it goes on. -/
theorem precise_orRaise_pop16 {x : Writes} {s u : State} {ps : List Place} {k : Word × State → Result}
    (hps : x.coversAll ps) (hok : inMemory (popAddr u 0) 2 u → ∀ v, Precise x s (k (v, popped u))) :
    Precise x s (orRaise s ps (pop16 u) k) := by
  by_cases h : inMemory (popAddr u 0) 2 u
  · rw [pop16_popped h]; exact hok h _
  · rw [pop16_error h]; exact precise_raise hps (coversPart_read _ _ _)

/-- A push: it fails and may leave some bytes of its word, or it goes on. -/
theorem precise_orRaise_push16 {x : Writes} {s u : State} {v : Word} {ps : List Place} {k : State → Result}
    (hps : x.coversAll ps) (hx : ∀ a ∈ byteRange (pushAddr u 1) 2, a ∈ x.bytes)
    (hok : inMemory (pushAddr u 1) 2 u → Precise x s (k (pushed v u))) : Precise x s (orRaise s ps (push16 v u) k) := by
  by_cases h : inMemory (pushAddr u 1) 2 u
  · rw [push16_ok v u h]; exact hok h
  · rw [push16_error h]; exact precise_raise hps (coversPart_write hx)

/-- A read before any write. -/
theorem precise_orRaise_readOp {x : Writes} {w : Width} {op : Operand} {s : State} {k : BitVec w.bits → Result}
    (hok : ∀ a, accessible w op s → Precise x s (k a)) : Precise x s (orRaise s [] (readOp w op s) k) :=
  precise_orRaise (fun _ h => ⟨coversAll_nil x, readOp_coversPart x h⟩) fun a h => hok a (readOp_inv w op s a h).1

theorem precise_orRaise_readFarPointer {x : Writes} {w : Width} {seg : SReg} {off : Word} {s : State}
    {k : BitVec w.bits × Word → Result} (hok : ∀ a, Precise x s (k a)) :
    Precise x s (orRaise s [] (readFarPointer w seg off s) k) :=
  precise_orRaise (fun _ h => ⟨coversAll_nil x, readFarPointer_coversPart x h⟩) fun a _ => hok a

theorem fault_stored (w : Width) (op : Operand) (v : BitVec w.bits) {u : State} (h : u.fault = none) :
    (stored w op v u).fault = none := by
  cases op <;> simpa [stored, memStored] using h

@[simp] theorem pushed_fault (v : Word) (s : State) : (pushed v s).fault = s.fault := by simp [pushed, memStored]

@[simp] theorem popped_fault (s : State) : (popped s).fault = s.fault := by simp [popped]

/-- The places of the pushes done. -/
theorem coversAll_pushedPlaces {x : Writes} {s : State} {n : Nat} (hsp : (Width.w16, Reg.sp) ∈ x.regs)
    (hx : ∀ a ∈ pushedBytes s n, a ∈ x.bytes) : x.coversAll (pushedPlaces s n) :=
  coversAll_cons hsp (coversAll_bytes hx)

theorem pushedBytes_mono {s : State} {m n : Nat} (h : m ≤ n) : ∀ a ∈ pushedBytes s m, a ∈ pushedBytes s n := by
  intro a ha
  obtain ⟨j, hj, hmem⟩ := mem_pushedBytes.mp ha
  exact mem_pushedBytes.mpr ⟨j, by omega, hmem⟩

/-! ## Arithmetic, moves and exchanges -/

section

variable {s : State} (hs : s.fault = none)
include hs

theorem precise_binaryAlu (x : Writes) (op : BinOp) (w : Width) (dst src : Operand) :
    Precise x s (binaryAlu op w dst src s) := by
  refine precise_orRaise_readOp fun a hdst => precise_orRaise_readOp fun b _ => ?_
  cases op with
  | cmp => exact precise_done hs
  | _ =>
    dsimp only
    rw [writeOp_ok w dst _ _ ((accessible_setFlags w dst _ s).mpr hdst), orRaise_ok]
    exact precise_done (fault_stored w dst _ hs)

theorem precise_testAlu (x : Writes) (w : Width) (dst src : Operand) : Precise x s (testAlu w dst src s) :=
  precise_orRaise_readOp fun _ _ => precise_orRaise_readOp fun _ _ => precise_done hs

theorem precise_unaryAlu (x : Writes) (op : UnOp) (w : Width) (dst : Operand) : Precise x s (unaryAlu op w dst s) := by
  refine precise_orRaise_readOp fun a hdst => ?_
  dsimp only
  rw [writeOp_ok w dst _ _ ((accessible_setFlags w dst _ s).mpr hdst), orRaise_ok]
  exact precise_done (fault_stored w dst _ hs)

theorem precise_mulDivMeaning (x : Writes) (f : MulDivForm) : Precise x s (mulDivMeaning f s) := by
  have hacc (hi lo : BitVec f.w.bits) : (writeAcc f.w hi lo s).fault = none := by simpa [writeAcc] using hs
  have hdivide : Precise x s (raise .divideError [] s) := precise_raise (coversAll_nil x) (coversPart_divideError x)
  obtain ⟨op, w, src⟩ := f
  cases op with
  | mul | imul => exact precise_orRaise_readOp fun _ _ => precise_done (hacc _ _)
  | div | idiv =>
    refine precise_orRaise_readOp fun d _ => ?_
    dsimp only
    split
    · exact hdivide
    · split
      · exact hdivide
      · exact precise_done (hacc _ _)

theorem precise_shiftOp (x : Writes) (op : ShiftOp) (w : Width) (dst : Operand) (src : Byte) :
    Precise x s (shiftOp op w dst src s) := by
  refine precise_orRaise_readOp fun a hdst => ?_
  have hwrite (c : Nat) (r : BitVec w.bits) (cf of : Bool) (d : Nat) :
      Precise x s (shiftWrite op w dst c r cf of { s with draws := d }) := by
    obtain ⟨v, d', -, h⟩ := shiftWrite_ok op hdst c r cf of d
    rw [h]
    exact precise_next (fault_stored w dst r hs)
  dsimp only
  split
  · exact precise_done hs
  · split
    · exact precise_done hs
    · exact hwrite _ _ _ _ s.draws
    · exact hwrite _ _ _ _ (s.draws + 1)

theorem precise_moveOp {x : Writes} {w : Width} {dst src : Operand} (hx : ∀ a ∈ operandBytes w dst s, a ∈ x.bytes) :
    Precise x s (moveOp w dst src s) := by
  refine precise_orRaise_readOp fun v _ => precise_orRaise
    (fun _ h => ⟨coversAll_nil x, writeOp_coversPart h hx⟩) fun u hu => ?_
  obtain ⟨-, rfl⟩ := writeOp_inv _ _ _ _ _ hu
  exact precise_done (fault_stored w dst v hs)

theorem precise_exchangeOp (x : Writes) (w : Width) (dst : Operand) (r : Reg) :
    Precise x s (exchangeOp w dst (.reg r) s) := by
  refine precise_orRaise_readOp fun a hdst => precise_orRaise_readOp fun b _ => ?_
  rw [writeOp_ok w dst b s hdst, orRaise_ok, writeOp_ok w (.reg r) a _ trivial, orRaise_ok]
  exact precise_done (fault_stored w (.reg r) a (fault_stored w dst b hs))

/-! ## The stack -/

theorem precise_pushValue {x : Writes} (v : Word) (hx : ∀ a ∈ pushedBytes s 1, a ∈ x.bytes) :
    Precise x s (pushValue v s) :=
  precise_orRaise_push16 (coversAll_nil x) (fun a ha => hx a (mem_pushedBytes_of_lt 0 Nat.one_pos a ha)) fun _ =>
    precise_done (by simpa using hs)

theorem precise_callNear {x : Writes} (target : Word) (hx : ∀ a ∈ pushedBytes s 1, a ∈ x.bytes) :
    Precise x s (callNear target s) :=
  precise_orRaise_push16 (coversAll_nil x) (fun a ha => hx a (mem_pushedBytes_of_lt 0 Nat.one_pos a ha)) fun _ =>
    precise_next (by simpa using hs)

/-- A far call: the first push fails, or the second with the first done. -/
theorem precise_callFarTo (sel off : Word) :
    (¬ inMemory (pushAddr s 1) 2 s → Precise { bytes := pushedBytes s 1 } s (callFarTo sel off s)) ∧
      Precise { regs := [(.w16, .sp)], bytes := pushedBytes s 2 } s (callFarTo sel off s) := by
  refine ⟨fun h => precise_orRaise_push16 (coversAll_nil _) (mem_pushedBytes_of_lt 0 (by decide)) fun h1 => absurd h1 h,
    precise_orRaise_push16 (coversAll_nil _) (mem_pushedBytes_of_lt 0 (by decide)) fun _ =>
      precise_orRaise_push16 (coversAll_pushedPlaces List.mem_cons_self (pushedBytes_mono (by decide))) ?_ fun _ =>
        precise_next (by simpa using hs)⟩
  rw [pushAddr_pushed]
  exact mem_pushedBytes_of_lt 1 (by decide)

theorem precise_returnNear (x : Writes) (n : Word) : Precise x s (returnNear n s) :=
  precise_orRaise_pop16 (coversAll_nil x) fun _ _ => precise_next (by simpa [releaseStack] using hs)

theorem precise_returnFar (n : Word) :
    (¬ inMemory (popAddr s 0) 2 s → Precise {} s (returnFar n s)) ∧
      Precise { regs := [(.w16, .sp)] } s (returnFar n s) :=
  ⟨fun h => precise_orRaise_pop16 (coversAll_nil _) fun h0 => absurd h0 h,
    precise_orRaise_pop16 (coversAll_nil _) fun _ _ =>
      precise_orRaise_pop16 (coversAll_cons List.mem_cons_self (coversAll_nil _)) fun _ _ =>
        precise_next (by simpa [releaseStack] using hs)⟩

theorem precise_interruptReturn :
    (¬ inMemory (popAddr s 0) 2 s → Precise {} s (interruptReturn s)) ∧
      (¬ inMemory (popAddr s 1) 2 s → Precise { regs := [(.w16, .sp)] } s (interruptReturn s)) ∧
      Precise { regs := [(.w16, .sp)], sregs := [.cs] } s (interruptReturn s) := by
  refine ⟨fun h => precise_orRaise_pop16 (coversAll_nil _) fun h0 => absurd h0 h,
    fun h => precise_orRaise_pop16 (coversAll_nil _) fun _ _ =>
      precise_orRaise_pop16 (coversAll_cons List.mem_cons_self (coversAll_nil _)) fun h1 => ?_,
    precise_orRaise_pop16 (coversAll_nil _) fun _ _ =>
      precise_orRaise_pop16 (coversAll_cons List.mem_cons_self (coversAll_nil _)) fun _ _ =>
        precise_orRaise_pop16 (coversAll_cons List.mem_cons_self (coversAll_cons List.mem_cons_self (coversAll_nil _)))
          fun _ _ => precise_next (by simpa using hs)⟩
  rw [popAddr_popped, inMemory_popped] at h1
  exact absurd h1 h

theorem precise_popFlags (x : Writes) : Precise x s (popFlags s) :=
  precise_orRaise_pop16 (coversAll_nil x) fun _ _ => precise_done (by simpa using hs)

theorem precise_popOperand (op : Operand) :
    (¬ inMemory (popAddr s 0) 2 s → Precise {} s (popOperand op s)) ∧
      Precise { regs := [(.w16, .sp)], bytes := operandBytes .w16 op s } s (popOperand op s) := by
  have hbytes : operandBytes .w16 op (popped s) = operandBytes .w16 op s :=
    congrArg Writes.bytes (operandWrites_congr (popped_sreg s) .w16 op)
  refine ⟨fun h => precise_orRaise_pop16 (coversAll_nil _) fun h0 => absurd h0 h,
    precise_orRaise_pop16 (coversAll_nil _) fun _ v => precise_orRaise (fun _ h =>
      ⟨coversAll_cons List.mem_cons_self (coversAll_nil _), writeOp_coversPart h (by rw [hbytes]; exact fun _ h => h)⟩)
      fun u hu => ?_⟩
  obtain ⟨-, rfl⟩ := writeOp_inv _ _ _ _ _ hu
  exact precise_done (fault_stored _ op _ (by simpa using hs))

/-! ## The entry of a handler -/

theorem precise_enterVector (n : Byte) :
    (¬ inMemory (pushAddr s 1) 2 s → Precise { bytes := pushedBytes s 1 } s (enterVector n s)) ∧
      (¬ inMemory (pushAddr s 2) 2 s →
        Precise { regs := [(.w16, .sp)], flags := [.IF, .TF], bytes := pushedBytes s 2 } s (enterVector n s)) ∧
      Precise { regs := [(.w16, .sp)], flags := [.IF, .TF], bytes := pushedBytes s 3 } s (enterVector n s) := by
  have hplaces {x : Writes} (hregs : x.regs = [(.w16, .sp)]) (hflags : x.flags = [.IF, .TF]) {j : Nat}
      (hx : ∀ a ∈ pushedBytes s j, a ∈ x.bytes) :
      x.coversAll (pushedPlaces s j ++ [.flag .IF, .flag .TF]) :=
    coversAll_append (coversAll_pushedPlaces (by simp [hregs]) hx)
      (coversAll_flags (ns := [.IF, .TF]) fun _ h => by rwa [hflags])
  refine ⟨fun h => precise_orRaise_push16 (coversAll_nil _) (mem_pushedBytes_of_lt 0 (by decide)) fun h1 => absurd h1 h,
    fun h => precise_orRaise_push16 (coversAll_nil _) (mem_pushedBytes_of_lt 0 (by decide)) fun _ =>
      precise_orRaise_push16 (hplaces rfl rfl (pushedBytes_mono (by decide))) ?_ fun h2 => ?_,
    precise_orRaise_push16 (coversAll_nil _) (mem_pushedBytes_of_lt 0 (by decide)) fun _ =>
      precise_orRaise_push16 (hplaces rfl rfl (pushedBytes_mono (by decide))) ?_ fun _ =>
        precise_orRaise_push16 (hplaces rfl rfl (pushedBytes_mono (by decide))) ?_ fun _ =>
          precise_orRaise (fun _ h => ⟨hplaces rfl rfl fun _ h => h, memRead_coversPart _ h⟩) fun _ _ =>
            precise_orRaise (fun _ h => ⟨hplaces rfl rfl fun _ h => h, memRead_coversPart _ h⟩) fun _ _ =>
              precise_next (by simpa using hs)⟩
  · rw [pushAddr_setFlags, pushAddr_pushed]
    exact mem_pushedBytes_of_lt 1 (by decide)
  · rw [pushAddr_setFlags, pushAddr_pushed] at h2
    exact absurd ((inMemory_pushed s.flags.image s _ 2).mp h2) h
  · rw [pushAddr_setFlags, pushAddr_pushed]
    exact mem_pushedBytes_of_lt 1 (by decide)
  · rw [pushAddr_pushed, pushAddr_setFlags, pushAddr_pushed]
    exact mem_pushedBytes_of_lt 2 (by decide)

end

end Sys2Proof.Machine
end

section
/-! PRECISION of the string instructions (46_string.md R470, log entry 18), and of every instruction. -/

namespace Sys2Proof.Machine

/-! ## One element -/

theorem elementFault_coversPart {f : StringForm} {s : State} {x : Writes}
    (h : f.op = .movs ∨ f.op = .stos → ∀ a ∈ byteRange (stringDest s) f.w.bytes, a ∈ x.bytes) :
    x.coversPart (elementFault f s) := by
  unfold elementFault
  split
  · exact coversPart_read _ _ _
  · by_cases hop : f.op = .movs ∨ f.op = .stos
    · rw [if_pos hop]; exact coversPart_write (h hop)
    · rw [if_neg hop]; exact coversPart_read _ _ _

theorem elementWrites_bytes {f : StringForm} (h : f.op = .movs ∨ f.op = .stos) (s : State) :
    (elementWrites f s).bytes = byteRange (stringDest s) f.w.bytes := by
  rw [← destElement_zero f.w]
  obtain h | h := h <;> rw [elementWrites, h]

theorem precise_stringOnce {f : StringForm} {s : State} (hs : s.fault = none) :
    Precise { bytes := (elementWrites f s).bytes } s (stringOnce f.op f.w f.ovr s) := by
  refine precise_orRaise (fun c h => ⟨coversAll_nil _, ?_⟩) fun t h =>
    precise_done ((kept_stringIteration h).fault.trans hs)
  by_cases hmem : elementInMemory f s
  · rw [stringIteration_ok hmem] at h; cases h
  · rw [stringIteration_error hmem] at h
    cases h
    exact elementFault_coversPart fun hop => by rw [elementWrites_bytes hop]; exact fun _ ha => ha

/-! ## A repetition -/

theorem readReg_cx_rounds (f : StringForm) (j : Nat) (s : State) :
    readReg .w16 .cx (rounds f j s) = readReg .w16 .cx s - BitVec.ofNat 16 j := by
  induction j generalizing s with
  | zero => exact (BitVec.sub_zero _).symm
  | succ j ih => rw [rounds, ih, readReg_cx_rounded, BitVec.sub_sub, ← BitVec.ofNat_add, Nat.add_comm]

/-- The rounds done are the difference of CX. -/
theorem cx_sub_rounds (f : StringForm) {j : Nat} {s : State} (hj : j < (readReg .w16 .cx s).toNat) :
    (s.cx - (rounds f j s).cx).toNat = j := by
  have hlt := (readReg .w16 .cx s).isLt
  have hsub (x : Word) : x - (x - BitVec.ofNat 16 j) = BitVec.ofNat 16 j := by bv_omega
  rw [State.cx, State.cx, readReg_cx_rounds, hsub, BitVec.toNat_ofNat, Nat.mod_eq_of_lt (Nat.lt_trans hj hlt)]

theorem iterationStores_eq (f : StringForm) (j : Nat) (s : State) :
    iterationStores f.op f.w j s = elementBytes f s j := by
  unfold iterationStores elementBytes
  rw [stringDelta_eq]
  rfl

theorem coversAll_iterationPlaces (f : StringForm) (s : State) {x : Writes} (hregs : ∀ p ∈ (elementWrites f s).regs, p ∈ x.regs)
    (hflags : ∀ n ∈ (elementWrites f s).flags, n ∈ x.flags) : x.coversAll (iterationPlaces f.op f.w) := by
  obtain ⟨op, w, ovr⟩ := f
  have hnil := coversAll_nil x
  cases op with
  | movs => exact coversAll_cons (hregs _ (by simp [elementWrites])) (coversAll_cons (hregs _ (by simp [elementWrites])) hnil)
  | cmps =>
    exact coversAll_cons (hregs _ (by simp [elementWrites])) (coversAll_cons (hregs _ (by simp [elementWrites]))
      (coversAll_flags hflags))
  | scas => exact coversAll_cons (hregs _ (by simp [elementWrites])) (coversAll_flags hflags)
  | stos => exact coversAll_cons (hregs _ (by simp [elementWrites])) hnil
  | lods => exact coversAll_cons (hregs _ (by simp [elementWrites])) (coversAll_cons (hregs _ (by simp [elementWrites])) hnil)

theorem interruptedWrites_bytes (f : StringForm) (s : State) (j : Nat) :
    (interruptedWrites f s j).bytes = elementBytes f s (j + 1) := rfl

theorem elementBytes_mono {f : StringForm} {s : State} {m n : Nat} (h : m ≤ n) :
    ∀ a ∈ elementBytes f s m, a ∈ elementBytes f s n := by
  intro a ha
  rw [mem_elementBytes] at ha ⊢
  obtain ⟨hop, l, hl, ha⟩ := ha
  exact ⟨hop, l, by omega, ha⟩

theorem coversAll_repeatPlaces (f : StringForm) (j : Nat) (s : State) :
    (interruptedWrites f s j).coversAll (repeatPlaces f.op f.w j s) := by
  unfold repeatPlaces
  split
  · exact coversAll_nil _
  · rename_i hj
    have hregs : (interruptedWrites f s j).regs = (.w16, .cx) :: (elementWrites f s).regs := if_neg hj
    have hflags : (interruptedWrites f s j).flags = (elementWrites f s).flags := if_neg hj
    refine coversAll_append (coversAll_cons ?_ (coversAll_iterationPlaces f s ?_ ?_)) (coversAll_bytes ?_)
    · show _ ∈ (interruptedWrites f s j).regs
      rw [hregs]; exact List.mem_cons_self
    · rw [hregs]; exact fun _ hp => List.mem_cons_of_mem _ hp
    · rw [hflags]; exact fun _ hn => hn
    · rw [iterationStores_eq, interruptedWrites_bytes]
      exact elementBytes_mono (Nat.le_succ j)

/-- A repetition that faults does so at an element; the rounds before are complete. -/
theorem changesAtMost_stringRepeat {f : RepeatForm} {s t : State} (h : stringRepeat f.op f.w f.ovr f.kind s = .next t)
    (hs : s.fault = none) (ht : t.fault ≠ none) :
    ∃ j < (readReg .w16 .cx s).toNat, elementsInMemory f.toStringForm s j ∧ ¬ elementsInMemory f.toStringForm s (j + 1) ∧
      ChangesAtMost (interruptedWrites f.toStringForm s j) s t := by
  unfold stringRepeat at h
  split at h
  case h_1 u hloop =>
    cases h
    exact absurd ((kept_repeatLoop _ hloop).fault.trans hs) ht
  case h_2 c u hloop =>
    obtain ⟨j, hj, hbefore, hafter, rfl, rfl⟩ := repeatLoop_error_inv hloop
    rw [cx_sub_rounds _ hj] at h
    refine ⟨j, hj, hbefore, hafter, changesAtMost_raise h (coversAll_repeatPlaces _ _ _)
      (elementFault_coversPart fun hop a ha => ?_)⟩
    have huse : usesDest f.op = true := by obtain hop | hop := hop <;> rw [hop] <;> rfl
    rw [stringDest_rounds huse] at ha
    rw [interruptedWrites_bytes, mem_elementBytes]
    exact ⟨hop, j, Nat.lt_succ_self j, ha⟩

/-! ## Every instruction -/

/-- Settles O57. -/
theorem faultPrecision : Obligations.FaultPrecision := by
  intro i s t h hs ht
  have hexec {x : Writes} (hx : Precise x s (exec i s)) : ChangesAtMost x s t := hx t h ht
  refine ⟨?_, fun f hi => ?_, fun f hi => ?_, ?_, fun op hi => ?_, ?_, ?_, ?_, ?_, fun n hi hn => ?_, fun f hi => ?_,
    fun f hi => ?_⟩
  · simp only [Option.isSome_iff_exists]
    rintro (⟨f, hi⟩ | ⟨f, hi⟩ | ⟨f, hi⟩ | ⟨f, hi⟩ | ⟨f, hi⟩ | ⟨f, hi⟩)
    · exact hexec (by rw [exec_binaryForm hi]; exact precise_binaryAlu hs _ _ _ _ _)
    · exact hexec (by rw [exec_testForm hi]; exact precise_testAlu hs _ _ _ _)
    · exact hexec (by rw [exec_unaryForm hi]; exact precise_unaryAlu hs _ _ _ _)
    · exact hexec (by rw [exec_mulDivForm hi]; exact precise_mulDivMeaning hs _ _)
    · exact hexec (by rw [exec_shiftForm hi]; exact precise_shiftOp hs _ _ _ _ _)
    · refine hexec ?_
      rw [exec_farLoadForm s hi]
      exact precise_orRaise_readFarPointer fun _ => precise_done (by simpa using hs)
  · exact hexec (by rw [exec_moveForm hi]; exact precise_moveOp hs fun _ h => h)
  · obtain ⟨r, hr⟩ := exchangeForm_src hi
    exact hexec (by rw [exec_exchangeForm hi, hr]; exact precise_exchangeOp hs _ _ _ _)
  · simp only [Option.isSome_iff_exists]
    rintro (⟨op, hi⟩ | rfl | ⟨d, rfl⟩ | ⟨e, rfl⟩)
    · refine hexec ?_
      rw [exec_pushForm hi]
      exact precise_orRaise_readOp fun v _ => precise_pushValue hs v fun _ h => h
    · exact hexec (precise_pushValue hs _ fun _ h => h)
    · exact hexec (precise_callNear hs _ fun _ h => h)
    · exact hexec (precise_orRaise_readOp fun v _ => precise_callNear hs v fun _ h => h)
  · obtain ⟨hpop, hall⟩ := precise_popOperand hs op
    rw [← exec_popForm hi] at hpop hall
    exact ⟨fun h0 => hexec (hpop h0), hexec hall⟩
  · rintro (⟨a, b, rfl⟩ | ⟨m, rfl⟩)
    · obtain ⟨hpush, hall⟩ := precise_callFarTo hs a b
      exact ⟨fun h1 => hexec (hpush h1), hexec hall⟩
    · exact ⟨fun h1 => hexec (precise_orRaise_readFarPointer fun p => (precise_callFarTo hs p.2 p.1).1 h1),
        hexec (precise_orRaise_readFarPointer fun p => (precise_callFarTo hs p.2 p.1).2)⟩
  · rintro (rfl | rfl | ⟨n, rfl⟩ | ⟨e, rfl⟩ | ⟨m, rfl⟩ | ⟨o, rfl⟩)
    · exact hexec (precise_popFlags hs _)
    · exact hexec (precise_returnNear hs _ _)
    · exact hexec (precise_returnNear hs _ _)
    · exact hexec (precise_orRaise_readOp fun v _ => precise_next hs)
    · exact hexec (precise_orRaise_readFarPointer fun p => precise_next hs)
    · exact hexec (precise_orRaise (fun _ h => ⟨coversAll_nil _, memRead_coversPart _ h⟩) fun v _ =>
        precise_done (by simpa using hs))
  · rintro (rfl | ⟨n, rfl⟩)
    · exact ⟨fun h0 => hexec ((precise_returnFar hs _).1 h0), hexec (precise_returnFar hs _).2⟩
    · exact ⟨fun h0 => hexec ((precise_returnFar hs n).1 h0), hexec (precise_returnFar hs n).2⟩
  · rintro rfl
    obtain ⟨hfirst, hsecond, hall⟩ := precise_interruptReturn hs
    exact ⟨fun h0 => hexec (hfirst h0), fun h1 => hexec (hsecond h1), hexec hall⟩
  · obtain hi | ⟨-, -, hi⟩ := exec_interruptVector (s := s) hi
    · rw [interrupt_unclaimed hn] at hi
      obtain ⟨hfirst, hsecond, hall⟩ := precise_enterVector hs n
      rw [← hi] at hfirst hsecond hall
      exact ⟨fun h1 => hexec (hfirst h1), fun h2 => hexec (hsecond h2), hexec hall⟩
    · have hdone {x : Writes} : Precise x s (exec i s) := by rw [hi]; exact precise_done hs
      exact ⟨fun _ => hexec hdone, fun _ => hexec hdone, hexec hdone⟩
  · exact hexec (by rw [exec_stringForm s hi]; exact precise_stringOnce hs)
  · rw [exec_repeatForm s hi] at h
    exact changesAtMost_stringRepeat h hs ht

end Sys2Proof.Machine
end

section
/-! The host's accessors: one bound, little-endian bytes (20_memory.md R80, R81). -/

namespace Sys2Proof.Machine

/-! ## The bound -/

/-- The `n` bytes at the host's address lie in memory. -/
def portInside (seg : Word) (off : Int) (n : Nat) (s : State) : Prop :=
  0 ≤ portPhys seg off ∧ portPhys seg off + n ≤ s.params.memSize

variable {seg : Word} {off : Int} {n : Nat} {s : State}

theorem portAddress_ok (h : n = 0 ∨ portInside seg off n s) (access : Access) :
    portAddress seg off n access s = .ok (portPhys seg off).toNat := by
  unfold portInside at h
  exact if_neg (by omega)

theorem portAddress_error (hn : n ≠ 0) (h : ¬ portInside seg off n s) (access : Access) :
    portAddress seg off n access s = .error ⟨portPhys seg off, n, access⟩ := by
  unfold portInside at h
  exact if_pos (by omega)

theorem portRead_ok (h : n = 0 ∨ portInside seg off n s) :
    portRead seg off n s = .ok (Memory.load s.mem (portPhys seg off).toNat n) := by
  rw [portRead, portAddress_ok h]

theorem portRead_error (hn : n ≠ 0) (h : ¬ portInside seg off n s) :
    portRead seg off n s = .error ⟨portPhys seg off, n, .read⟩ := by
  rw [portRead, portAddress_error hn h]

theorem portWrite_ok (h : n = 0 ∨ portInside seg off n s) (v : Nat) :
    portWrite seg off n v s = .ok (s.setMem (Memory.store s.mem (portPhys seg off).toNat v n)) := by
  rw [portWrite, portAddress_ok h, State.setMem]

theorem portWrite_error (hn : n ≠ 0) (h : ¬ portInside seg off n s) (v : Nat) :
    portWrite seg off n v s = .error ⟨portPhys seg off, n, .write⟩ := by
  rw [portWrite, portAddress_error hn h]

/-! ## What an accessor reads and writes -/

/-- The answer is a value whose `n` low bytes are those at the host's address. -/
def PortLoads {w : Nat} (seg : Word) (off : Int) (n : Nat) (s : State) (r : Except PortFault (BitVec w)) : Prop :=
  ∃ x, r = .ok x ∧ ∀ j < n, x.extractLsb' (8 * j) 8 = Memory.read s.mem ((portPhys seg off).toNat + j)

/-- The answer is the state with the bytes `v 0, v 1, …` at the host's address. -/
def PortStores (seg : Word) (off : Int) (n : Nat) (v : Nat → Byte) (s : State) (r : Except PortFault State) : Prop :=
  ∃ t, r = .ok t ∧ t = s.setMem t.mem ∧ Memory.wf t.mem ∧
    ∀ x, Memory.read t.mem x =
      if (portPhys seg off).toNat ≤ x ∧ x < (portPhys seg off).toNat + n then v (x - (portPhys seg off).toNat)
      else Memory.read s.mem x

theorem portLoads_portRead (h : portInside seg off n s) (w : Nat) (hw : 8 * n ≤ w) :
    PortLoads seg off n s ((portRead seg off n s).map (BitVec.ofNat w)) :=
  ⟨_, by rw [portRead_ok (.inr h)]; rfl, fun j hj => Memory.extractLsb'_load s.mem _ n j w hj hw⟩

theorem portStores_setMem {v : Nat → Byte} {r : Except PortFault State} (m : Memory) (hr : r = .ok (s.setMem m))
    (hwf : Memory.wf m)
    (hread : ∀ x, Memory.read m x =
      if (portPhys seg off).toNat ≤ x ∧ x < (portPhys seg off).toNat + n then v (x - (portPhys seg off).toNat)
      else Memory.read s.mem x) :
    PortStores seg off n v s r :=
  ⟨_, hr, rfl, hwf, hread⟩

theorem portStores_portWrite (hs : Memory.wf s.mem) (h : portInside seg off n s) {w : Nat} (v : BitVec w) :
    PortStores seg off n (fun j => v.extractLsb' (8 * j) 8) s (portWrite seg off n v.toNat s) :=
  portStores_setMem _ (portWrite_ok (.inr h) _) (Memory.store_wf _ _ _ _ hs)
    fun x => Memory.read_store_bitVec s.mem _ n x v hs

theorem portStores_setByte (hs : Memory.wf s.mem) (h : portInside seg off 1 s) (v : Byte) :
    PortStores seg off 1 (fun _ => v) s (setByte seg off v s) := by
  refine portStores_setMem _ (portWrite_ok (.inr h) _) (Memory.store_wf _ _ _ _ hs) fun x => ?_
  rw [Memory.read_store_bitVec s.mem _ 1 x v hs]
  split
  · rw [show x - (portPhys seg off).toNat = 0 by omega]; simp
  · rfl

theorem setBits_error (h : ¬ portInside seg off 1 s) (m : Byte) :
    setBits seg off m s = .error ⟨portPhys seg off, 1, .write⟩ := by
  rw [setBits, portAddress_error Nat.one_ne_zero h]

theorem portStores_setBits (hs : Memory.wf s.mem) (h : portInside seg off 1 s) (m : Byte) :
    PortStores seg off 1 (fun _ => Memory.read s.mem ((portPhys seg off).toNat + 0) ||| m) s (setBits seg off m s) := by
  refine portStores_setMem _ (by rw [setBits, portAddress_ok (.inr h), State.setMem])
    (Memory.write_wf _ _ _ hs) fun x => ?_
  rw [Memory.read_write _ _ _ _ hs]
  exact ite_congr (propext (by omega)) (fun _ => rfl) fun _ => rfl

theorem getBytes_ok (h : n = 0 ∨ portInside seg off n s) :
    getBytes seg off n s =
      .ok ((List.range n).map fun j => Memory.read s.mem ((portPhys seg off).toNat + j)) := by
  rw [getBytes, portAddress_ok h]
  exact congrArg _ List.map_map

theorem getBytes_error (hn : n ≠ 0) (h : ¬ portInside seg off n s) :
    getBytes seg off n s = .error ⟨portPhys seg off, n, .read⟩ := by
  rw [getBytes, portAddress_error hn h]

theorem setBytes_error {bs : List Byte} (hbs : bs ≠ []) (h : ¬ portInside seg off bs.length s) :
    setBytes seg off bs s = .error ⟨portPhys seg off, bs.length, .write⟩ := by
  rw [setBytes, portAddress_error (by simpa using hbs) h]

theorem portStores_setBytes (hs : Memory.wf s.mem) {bs : List Byte} (h : bs = [] ∨ portInside seg off bs.length s) :
    PortStores seg off bs.length (fun j => bs.getD j 0#8) s (setBytes seg off bs s) :=
  portStores_setMem _ (by rw [setBytes, portAddress_ok (h.imp_left List.length_eq_zero_iff.mpr), State.setMem])
    (Memory.writeBytes_wf _ _ _ hs) fun x => Memory.read_writeBytes bs s.mem _ x hs

/-! ## The core's own read -/

theorem portPhys_word (seg o : Word) : portPhys seg o.toNat = (phys seg o : Int) := by
  rw [portPhys, phys]; omega

/-- At an offset below 0x10000 the host reads what the core reads, or both fail at the same address. -/
theorem getWord_eq_memRead (seg o : Word) (s : State) :
    getWord seg o.toNat s = (memRead .w16 (phys seg o) s).mapError fun _ => ⟨(phys seg o : Int), 2, .read⟩ := by
  have hiff : portInside seg o.toNat 2 s ↔ inMemory (phys seg o) Width.w16.bytes s := by
    rw [portInside, portPhys_word, inMemory, Width.bytes]; omega
  by_cases h : inMemory (phys seg o) Width.w16.bytes s
  · rw [memRead_ok _ _ _ h, getWord, portRead_ok (.inr (hiff.mpr h)), portPhys_word]; rfl
  · rw [memRead_error _ _ _ h, getWord, portRead_error (by decide) (mt hiff.mp h), portPhys_word]; rfl

/-- Settles O59: each accessor either fails at the bound or is the load or the store of its bytes. -/
theorem hostAccessors : Obligations.HostAccessors := by
  intro s seg off hs p a inside byteAt stores loads
  have hget (n w : Nat) (hn : n ≠ 0) (h : ¬ inside n) :
      (portRead seg off n s).map (BitVec.ofNat w) = .error ⟨p, n, .read⟩ := by rw [portRead_error hn h]; rfl
  have hset (n : Nat) {w : Nat} (hn : n ≠ 0) (h : ¬ inside n) (v : BitVec w) :
      portWrite seg off n v.toNat s = .error ⟨p, n, .write⟩ := portWrite_error hn h _
  refine ⟨fun h => ⟨hget 1 8 (by decide) h, hset 1 (by decide) h, setBits_error h⟩,
    fun h => ⟨hget 2 16 (by decide) h, hset 2 (by decide) h⟩,
    fun h => ⟨hget 4 32 (by decide) h, hset 4 (by decide) h⟩,
    fun h => ⟨hget 8 64 (by decide) h, hset 8 (by decide) h⟩,
    fun n hn h => getBytes_error hn h, fun bs hbs h => setBytes_error hbs h,
    fun h => ⟨portLoads_portRead h 8 (by decide), portStores_setByte hs h, portStores_setBits hs h⟩,
    fun h => ⟨portLoads_portRead h 16 (by decide), portStores_portWrite hs h⟩,
    fun h => ⟨portLoads_portRead h 32 (by decide), portStores_portWrite hs h⟩,
    fun h => ⟨portLoads_portRead h 64 (by decide), portStores_portWrite hs h⟩,
    fun n h => getBytes_ok h, fun bs h => portStores_setBytes hs h, fun o => getWord_eq_memRead seg o s⟩

end Sys2Proof.Machine
end

section
/-! The assembler's resolver, its one-byte rows and DB (30_encoding.md R182-R188). -/

namespace Sys2Proof.Machine

/-! ## The tokens by class (R182) -/

/-- The register of class {BX, BP} a token is, if it is one. -/
def AsmToken.baseReg : AsmToken → Option Reg
  | .reg .bx => some .bx
  | .reg .bp => some .bp
  | _ => none

/-- The register of class {SI, DI} a token is, if it is one. -/
def AsmToken.indexReg : AsmToken → Option Reg
  | .reg .si => some .si
  | .reg .di => some .di
  | _ => none

/-- The number a token is, if it is one. -/
def AsmToken.number : AsmToken → Option Int
  | .num v => some v
  | _ => none

/-- The token belongs to one of the three classes. -/
def AsmToken.recognised (t : AsmToken) : Bool := t.baseReg.isSome || t.indexReg.isSome || t.number.isSome

/-- A token classified takes the free place of its class. -/
theorem classify_ok {a b : AsmParts} {t : AsmToken} (h : classify a t = .ok b) :
    b.base.toList = a.base.toList ++ t.baseReg.toList ∧ b.index.toList = a.index.toList ++ t.indexReg.toList ∧
      b.num.toList = a.num.toList ++ t.number.toList ∧ t.recognised = true := by
  revert h
  fun_cases classify a t <;> intro h <;> cases h <;>
    simp_all [AsmToken.baseReg, AsmToken.indexReg, AsmToken.number, AsmToken.recognised]

/-- Tokens classified are all recognised, and the places hold those of their class: so at most one of each. -/
theorem classifyAll_ok {a b : AsmParts} {ts : List AsmToken} (h : classifyAll a ts = .ok b) :
    b.base.toList = a.base.toList ++ ts.filterMap AsmToken.baseReg ∧
      b.index.toList = a.index.toList ++ ts.filterMap AsmToken.indexReg ∧
      b.num.toList = a.num.toList ++ ts.filterMap AsmToken.number ∧ ∀ t ∈ ts, t.recognised = true := by
  induction ts generalizing a with
  | nil => cases h; simp
  | cons t ts ih =>
    cases hc : classify a t with
    | error e => rw [classifyAll, hc] at h; cases h
    | ok a' =>
      rw [classifyAll, hc] at h
      obtain ⟨hbase, hindex, hnum, hrec⟩ := classify_ok hc
      obtain ⟨hbases, hindices, hnums, hrecs⟩ := ih h
      have happend {α : Type} (f : AsmToken → Option α) :
          (t :: ts).filterMap f = (f t).toList ++ ts.filterMap f := by rw [List.filterMap_cons]; cases f t <;> rfl
      exact ⟨by rw [hbases, hbase, happend, List.append_assoc], by rw [hindices, hindex, happend, List.append_assoc],
        by rw [hnums, hnum, happend, List.append_assoc], List.forall_mem_cons.mpr ⟨hrec, hrecs⟩⟩

theorem classify_error {a : AsmParts} {t : AsmToken} {e : AsmError} (h : classify a t = .error e) :
    e = .malformedInstruction := by
  revert h
  fun_cases classify a t <;> intro h <;> cases h <;> rfl

theorem classifyAll_error {a : AsmParts} {ts : List AsmToken} {e : AsmError} (h : classifyAll a ts = .error e) :
    e = .malformedInstruction := by
  induction ts generalizing a with
  | nil => cases h
  | cons t ts ih =>
    rw [classifyAll] at h
    split at h
    · next hc => cases h; exact classify_error hc
    · exact ih h

/-! ## The resolver (R182-R184) -/

theorem resolve_base {ts : List AsmToken} {b i : Option Reg} {form : EABase}
    (h : classifyAll {} ts = .ok ⟨b, i, none⟩) (hkey : registerKey b i = some form) :
    resolve ts = .ok (.base form) := by
  simp only [resolve, h, hkey]

theorem resolve_number {ts : List AsmToken} {b i : Option Reg} {v : Int} {form : EABase}
    (h : classifyAll {} ts = .ok ⟨b, i, some v⟩) (hkey : registerKey b i = some form) (hlow : 0 ≤ v) (hhigh : v < 0x10000) :
    resolve ts = .ok (if v < 0x100 then .disp8 form (BitVec.ofInt 8 v) else .disp16 form (BitVec.ofInt 16 v)) := by
  have hsome : ¬ (b = none ∧ i = none) := by
    rintro ⟨rfl, rfl⟩; cases hkey
  simp only [resolve, h, hkey, if_neg hsome, if_neg (show ¬ (v < 0 ∨ 0x10000 ≤ v) by omega)]
  split <;> rfl

/-- The only failure of the resolver. -/
theorem resolve_error {ts : List AsmToken} {e : AsmError} (h : resolve ts = .error e) : e = .malformedInstruction := by
  revert h
  fun_cases resolve ts <;> intro h <;> cases h
  · next hc => exact classifyAll_error hc
  all_goals rfl

/-- What is resolved was classified, and its number is a displacement of 16 bits. -/
theorem resolve_ok {ts : List AsmToken} {m : MemForm} (h : resolve ts = .ok m) :
    ∃ a, classifyAll {} ts = .ok a ∧ ∀ v ∈ a.num, 0 ≤ v ∧ v < 0x10000 := by
  revert h
  fun_cases resolve ts <;> intro h <;> cases h
  all_goals refine ⟨_, ‹_›, fun v hv => ?_⟩
  all_goals simp_all

/-- Tokens of one class that fit in one place are at most one. -/
theorem length_filter_le_one {α : Type} {ts : List AsmToken} {q : AsmToken → Bool} {f : AsmToken → Option α} {o : Option α}
    (hq : ∀ t, q t = (f t).isSome) (h : o.toList = ts.filterMap f) : (ts.filter q).length ≤ 1 := by
  rw [← List.countP_eq_length_filter, funext hq, ← List.length_filterMap_eq_countP, ← h]
  exact Option.length_toList_le

theorem AsmToken.isSome_baseReg (t : AsmToken) : (t == .reg .bx || t == .reg .bp) = t.baseReg.isSome := by
  cases t with
  | reg r => cases r <;> rfl
  | _ => rfl

theorem AsmToken.isSome_indexReg (t : AsmToken) : (t == .reg .si || t == .reg .di) = t.indexReg.isSome := by
  cases t with
  | reg r => cases r <;> rfl
  | _ => rfl

/-- A bracketed expression with two tokens of a class, an unknown token or a number out of range is refused (R182, R184). -/
theorem resolve_refuses {ts : List AsmToken}
    (h : 2 ≤ (ts.filter fun t => t == .reg .bx || t == .reg .bp).length ∨
      2 ≤ (ts.filter fun t => t == .reg .si || t == .reg .di).length ∨ 2 ≤ (ts.filter fun t => t.number.isSome).length ∨
      (∃ t ∈ ts, t.recognised = false) ∨ ∃ v : Int, .num v ∈ ts ∧ (v < 0 ∨ 0x10000 ≤ v)) :
    resolve ts = .error .malformedInstruction := by
  cases hr : resolve ts with
  | error e => rw [resolve_error hr]
  | ok m =>
    exfalso
    obtain ⟨a, ha, hrange⟩ := resolve_ok hr
    obtain ⟨hbase, hindex, hnum, hrec⟩ := classifyAll_ok ha
    obtain h | h | h | ⟨t, ht, h⟩ | ⟨v, hv, h⟩ := h
    · have := length_filter_le_one AsmToken.isSome_baseReg hbase; omega
    · have := length_filter_le_one AsmToken.isSome_indexReg hindex; omega
    · have := length_filter_le_one (fun _ => rfl) hnum; omega
    · rw [hrec t ht] at h; cases h
    · have hmem : v ∈ a.num.toList := by rw [hnum]; exact List.mem_filterMap.mpr ⟨_, hv, rfl⟩
      have := hrange v (Option.mem_toList.mp hmem); omega

/-! ## The one-byte rows and the aliases (R181, R186) -/

theorem assemble_incDec (here : Word) (r : Reg) :
    assemble here ⟨none, "INC", [.reg16 r]⟩ = .ok [[0x40#8 ||| r.code.setWidth 8]] ∧
      assemble here ⟨none, "DEC", [.reg16 r]⟩ = .ok [[0x48#8 ||| r.code.setWidth 8]] := by
  cases r <;> exact ⟨rfl, rfl⟩

theorem assemble_xchg (here : Word) (r : Reg) :
    assemble here ⟨none, "XCHG", [.reg8 r, .mem none [.reg .bx]]⟩ =
      .ok [[0x86, 0x07#8 ||| r.code.setWidth 8 <<< 3]] := by
  cases r <;> rfl

/-- Two spellings of one mnemonic assemble alike. -/
theorem assemble_congr {m m' : String} (here : Word) (rep : Option String) (as : List AsmOperand)
    (h : canonicalMnemonic m = canonicalMnemonic m') (hm : m ≠ "DB") (hm' : m' ≠ "DB") :
    assemble here ⟨rep, m, as⟩ = assemble here ⟨rep, m', as⟩ := by
  simp only [assemble, lineForms, h, if_neg hm, if_neg hm']

/-! ## DB (R188) -/

theorem assemble_data {here : Word} {as : List AsmOperand} (h : as ≠ []) :
    assemble here ⟨none, "DB", as⟩ = (dataBytes as).map ([·]) := by
  rw [assemble, if_pos rfl, if_neg (by simp [h])]

theorem assemble_data_nil (here : Word) : assemble here ⟨none, "DB", []⟩ = .error .malformedInstruction := by
  rw [assemble, if_pos rfl, if_pos (.inr rfl)]

theorem assemble_data_rep (here : Word) (rep : String) (as : List AsmOperand) :
    assemble here ⟨some rep, "DB", as⟩ = .error .malformedInstruction := by
  rw [assemble, if_pos rfl, if_pos (.inl (by simp))]

/-- Settles O60: the table row by row, and the failures from what a successful resolution says of its tokens. -/
theorem assemblerTables : Obligations.AssemblerTables := by
  refine ⟨fun a b form v hmem => ?_, fun a form v hmem => ?_, fun v => ⟨fun hlow hhigh => if_neg (by omega), ?_⟩, rfl, rfl,
    ?_, fun here r => ⟨(assemble_incDec here r).1, (assemble_incDec here r).2, assemble_xchg here r⟩,
    fun here a => ⟨assemble_congr here _ _ rfl (by decide) (by decide),
      assemble_congr here _ _ rfl (by decide) (by decide)⟩,
    fun here chars v as rep => ⟨?_, fun hlow hhigh => ?_, fun h => ?_, assemble_data_nil here,
      assemble_data_rep here rep as⟩⟩
  · obtain ⟨hab, hba, hnum, hkey⟩ : classifyAll {} [.reg a, .reg b] = .ok ⟨some a, some b, none⟩ ∧
        classifyAll {} [.reg b, .reg a] = .ok ⟨some a, some b, none⟩ ∧
        classifyAll {} [.reg a, .reg b, .num v] = .ok ⟨some a, some b, some v⟩ ∧
        registerKey (some a) (some b) = some form := by
      simp only [List.mem_cons, Prod.mk.injEq, List.not_mem_nil, or_false] at hmem
      obtain ⟨rfl, rfl, rfl⟩ | ⟨rfl, rfl, rfl⟩ | ⟨rfl, rfl, rfl⟩ | ⟨rfl, rfl, rfl⟩ := hmem <;>
        exact ⟨rfl, rfl, rfl, rfl⟩
    exact ⟨resolve_base hab hkey, resolve_base hba hkey,
      fun hlow hhigh => by rw [resolve_number hnum hkey hlow (by omega), if_pos hhigh],
      fun hlow hhigh => by rw [resolve_number hnum hkey (by omega) hhigh, if_neg (by omega)]⟩
  · obtain ⟨b, i, ha, hnum, hkey⟩ : ∃ b i, classifyAll {} [.reg a] = .ok ⟨b, i, none⟩ ∧
        classifyAll {} [.reg a, .num v] = .ok ⟨b, i, some v⟩ ∧ registerKey b i = some form := by
      simp only [List.mem_cons, Prod.mk.injEq, List.not_mem_nil, or_false] at hmem
      obtain ⟨rfl, rfl⟩ | ⟨rfl, rfl⟩ | ⟨rfl, rfl⟩ := hmem <;> exact ⟨_, _, rfl, rfl, rfl⟩
    exact ⟨resolve_base ha hkey,
      fun hlow hhigh => by rw [resolve_number hnum hkey hlow (by omega), if_pos hhigh],
      fun hlow hhigh => by rw [resolve_number hnum hkey (by omega) hhigh, if_neg (by omega)]⟩
  · by_cases h : v < 0 ∨ 0x10000 ≤ v
    · exact if_pos h
    · exact if_neg h
  · intro ts count h
    have hnum : (fun t : AsmToken => match t with | .num _ => true | _ => false) = fun t => t.number.isSome := by
      funext t; cases t <;> rfl
    refine resolve_refuses ?_
    obtain h | h | h | h | ⟨r, hr, h⟩ | h := h
    · exact .inl h
    · exact .inr (.inl h)
    · exact .inr (.inr (.inl (hnum ▸ h)))
    · exact .inr (.inr (.inr (.inl ⟨_, h, rfl⟩)))
    · refine .inr (.inr (.inr (.inl ⟨_, h, ?_⟩)))
      simp only [List.mem_cons, List.not_mem_nil, or_false] at hr
      obtain rfl | rfl | rfl | rfl := hr <;> rfl
    · exact .inr (.inr (.inr (.inr h)))
  · simp [assemble_data, dataBytes, Except.map]
  · simp [assemble_data, dataBytes, hlow, hhigh, Except.map]
  · rw [assemble_data (by simp), dataBytes, if_neg (by omega)]; rfl

end Sys2Proof.Machine
end
